-- ==== Sys2Proof/Word.lean ====
section
/-! DEFINITION. The word type: every register and every memory cell of the core is one byte (00_scope.md R7, WORD). -/

namespace Sys2Proof

/-- An 8-bit unsigned value, 0..255 (00_scope.md R10, R12). -/
abbrev Byte := BitVec 8

end Sys2Proof
end

