-- ==== Sys2Proof/Syntax.lean ====
section
/-! DEFINITION. The instructions: one constructor of `Instr` for every row of spec/opcode_table.json, in the table's order (30_encoding.md R80). -/

namespace Sys2Proof

/-- The eight general registers (10_state.md R20). R7 is the stack pointer (R21). -/
inductive Reg
  | r0 | r1 | r2 | r3 | r4 | r5 | r6 | r7
deriving DecidableEq, Repr

/-- The instruction formats of 30_encoding.md R74 that an assigned instruction can have. Format F3 holds unassigned opcodes only. -/
inductive Format
  /-- opcode alone -/
  | f0
  /-- one register operand -/
  | f1r
  /-- one immediate operand -/
  | f1i
  /-- two register operands -/
  | f2rr
  /-- a register operand, then an immediate -/
  | f2ri
deriving DecidableEq, Repr

/-- The operations: what the dispatcher selects from the opcode byte alone (30_encoding.md R75, R81 (c)). -/
inductive Op
  | hlt | ret | iret
  | pra | prn | call | calli | pop | push | jmp | jeq | jne | jlt | jgt | jmpi | not | inc | dec
  | cmpi | addi | subi | muli | divi | modi | drw | ld | ldi | st
  | cmp | add | sub | mul | div | mod | or | xor | and
deriving DecidableEq, Repr

/-- An instruction with its operand bytes as the fetch unit latched them (30_encoding.md R73): `r`, `a`, `b` are
register operand bytes, which name a register only when they are 0..7 (R78), and `imm` is an immediate (R79). -/
inductive Instr
  | hlt
  | ret
  | iret
  | pra (r : Byte)
  | prn (r : Byte)
  | call (r : Byte)
  | calli (imm : Byte)
  | pop (r : Byte)
  | push (r : Byte)
  | jmp (r : Byte)
  | jeq (r : Byte)
  | jne (r : Byte)
  | jlt (r : Byte)
  | jgt (r : Byte)
  | jmpi (imm : Byte)
  | not (r : Byte)
  | inc (r : Byte)
  | dec (r : Byte)
  | cmpi (r imm : Byte)
  | addi (r imm : Byte)
  | subi (r imm : Byte)
  | muli (r imm : Byte)
  | divi (r imm : Byte)
  | modi (r imm : Byte)
  | drw (a b : Byte)
  | ld (a b : Byte)
  | ldi (r imm : Byte)
  | st (a b : Byte)
  | cmp (a b : Byte)
  | add (a b : Byte)
  | sub (a b : Byte)
  | mul (a b : Byte)
  | div (a b : Byte)
  | mod (a b : Byte)
  | or (a b : Byte)
  | xor (a b : Byte)
  | and (a b : Byte)
deriving DecidableEq, Repr

end Sys2Proof
end

