-- ==== Sys2Proof/Config.lean ====
section
/-! DEFINITION. What is fixed for one machine: the OPEN parameters of 00_scope.md R7, which are arguments of the model.
Their default values stand in Sys2Proof/Machine/Params.lean and in `defaultOpc` of Sys2Proof/Decode.lean.
The spec leaves no value undefined, so there is no free value here. -/

namespace Sys2Proof

/-- An opcode map OPC: the opcode byte of every operation (30_encoding.md R80, R81; decision D13). -/
structure OpcodeMap where
  (hlt ret iret pra prn call calli pop : Byte)
  (push jmp jeq jne jlt jgt jmpi not : Byte)
  (inc dec cmpi addi subi muli divi modi : Byte)
  (drw ld ldi st cmp add sub mul : Byte)
  (div mod or xor and : Byte)
deriving DecidableEq, Repr

/-- The OPEN parameters of 00_scope.md R7 that a rule reads. SP_IDX is 7 and is not OPEN. -/
structure Config where
  /-- IM_IDX, the register aliased as interrupt mask (10_state.md R22) -/
  imIdx : Reg
  /-- IS_IDX, the register aliased as interrupt status (10_state.md R22) -/
  isIdx : Reg
  /-- VT_BASE, the vector table's base address (60_exceptions.md R247) -/
  vtBase : Byte
  /-- SP_RESET, the stack pointer at reset (10_state.md R36) -/
  spReset : Byte
  /-- KEY_ADDR, the cell that receives the last key pressed (60_exceptions.md R251) -/
  keyAddr : Byte
  /-- OPC, the opcode map (30_encoding.md R80) -/
  opc : OpcodeMap
deriving DecidableEq, Repr

end Sys2Proof
end

