-- ==== Sys2Proof/WellFormed.lean ====
section
/-! DEFINITION. Well-formed instructions: every register operand byte names a register (30_encoding.md R74, R78). -/

namespace Sys2Proof

/-- A register operand byte is `00000rrr`: its value is 0..7 (30_encoding.md R74, R78). -/
def regByteOk (k : Byte) : Bool := k.toNat ≤ 7

/-- The check of 30_encoding.md R78 for every register operand of the instruction. An immediate has no illegal value (R85). -/
def Instr.wellFormed : Instr → Bool
  | .hlt => true
  | .ret => true
  | .iret => true
  | .pra r => regByteOk r
  | .prn r => regByteOk r
  | .call r => regByteOk r
  | .calli _ => true
  | .pop r => regByteOk r
  | .push r => regByteOk r
  | .jmp r => regByteOk r
  | .jeq r => regByteOk r
  | .jne r => regByteOk r
  | .jlt r => regByteOk r
  | .jgt r => regByteOk r
  | .jmpi _ => true
  | .not r => regByteOk r
  | .inc r => regByteOk r
  | .dec r => regByteOk r
  | .cmpi r _ => regByteOk r
  | .addi r _ => regByteOk r
  | .subi r _ => regByteOk r
  | .muli r _ => regByteOk r
  | .divi r _ => regByteOk r
  | .modi r _ => regByteOk r
  | .drw a b => regByteOk a && regByteOk b
  | .ld a b => regByteOk a && regByteOk b
  | .ldi r _ => regByteOk r
  | .st a b => regByteOk a && regByteOk b
  | .cmp a b => regByteOk a && regByteOk b
  | .add a b => regByteOk a && regByteOk b
  | .sub a b => regByteOk a && regByteOk b
  | .mul a b => regByteOk a && regByteOk b
  | .div a b => regByteOk a && regByteOk b
  | .mod a b => regByteOk a && regByteOk b
  | .or a b => regByteOk a && regByteOk b
  | .xor a b => regByteOk a && regByteOk b
  | .and a b => regByteOk a && regByteOk b

end Sys2Proof
end

