-- ==== Sys2Proof/Decode.lean ====
section
/-! DEFINITION. The decoder and dispatcher (30_encoding.md R71-R86), total on any bytes, the encoder after it, and the
default opcode map of R80. -/

namespace Sys2Proof

/-- The operand count n: bits 7:6 of the opcode byte (30_encoding.md R72). -/
def operandCount (opcode : Byte) : Nat := opcode.toNat / 64

/-- The instruction's length in bytes, 1 + n (30_encoding.md R72, R86). -/
def instrLength (opcode : Byte) : Nat := 1 + operandCount opcode

/-- How many operand bytes a format has (30_encoding.md R74). -/
def Format.operandCount : Format → Nat
  | .f0 => 0
  | .f1r => 1
  | .f1i => 1
  | .f2rr => 2
  | .f2ri => 2

/-- The format of every operation (30_encoding.md R80, column "format"). -/
def Op.format : Op → Format
  | .hlt => .f0
  | .ret => .f0
  | .iret => .f0
  | .pra => .f1r
  | .prn => .f1r
  | .call => .f1r
  | .calli => .f1i
  | .pop => .f1r
  | .push => .f1r
  | .jmp => .f1r
  | .jeq => .f1r
  | .jne => .f1r
  | .jlt => .f1r
  | .jgt => .f1r
  | .jmpi => .f1i
  | .not => .f1r
  | .inc => .f1r
  | .dec => .f1r
  | .cmpi => .f2ri
  | .addi => .f2ri
  | .subi => .f2ri
  | .muli => .f2ri
  | .divi => .f2ri
  | .modi => .f2ri
  | .drw => .f2rr
  | .ld => .f2rr
  | .ldi => .f2ri
  | .st => .f2rr
  | .cmp => .f2rr
  | .add => .f2rr
  | .sub => .f2rr
  | .mul => .f2rr
  | .div => .f2rr
  | .mod => .f2rr
  | .or => .f2rr
  | .xor => .f2rr
  | .and => .f2rr

/-- Every operation, in the order of spec/opcode_table.json. -/
def Op.all : List Op :=
  [.hlt, .ret, .iret, .pra, .prn, .call, .calli, .pop, .push, .jmp, .jeq, .jne, .jlt, .jgt, .jmpi, .not, .inc, .dec,
    .cmpi, .addi, .subi, .muli, .divi, .modi, .drw, .ld, .ldi, .st, .cmp, .add, .sub, .mul, .div, .mod, .or, .xor, .and]

/-- The opcode byte that a map gives an operation. -/
def OpcodeMap.byte (m : OpcodeMap) : Op → Byte
  | .hlt => m.hlt
  | .ret => m.ret
  | .iret => m.iret
  | .pra => m.pra
  | .prn => m.prn
  | .call => m.call
  | .calli => m.calli
  | .pop => m.pop
  | .push => m.push
  | .jmp => m.jmp
  | .jeq => m.jeq
  | .jne => m.jne
  | .jlt => m.jlt
  | .jgt => m.jgt
  | .jmpi => m.jmpi
  | .not => m.not
  | .inc => m.inc
  | .dec => m.dec
  | .cmpi => m.cmpi
  | .addi => m.addi
  | .subi => m.subi
  | .muli => m.muli
  | .divi => m.divi
  | .modi => m.modi
  | .drw => m.drw
  | .ld => m.ld
  | .ldi => m.ldi
  | .st => m.st
  | .cmp => m.cmp
  | .add => m.add
  | .sub => m.sub
  | .mul => m.mul
  | .div => m.div
  | .mod => m.mod
  | .or => m.or
  | .xor => m.xor
  | .and => m.and

/-- The default opcode map (30_encoding.md R80; decision D13: the values are the spec's, not read from its source). -/
def defaultOpc : OpcodeMap where
  hlt := 0x01
  ret := 0x09
  iret := 0x0B
  pra := 0x42
  prn := 0x43
  call := 0x48
  calli := 0x49
  pop := 0x4C
  push := 0x4D
  jmp := 0x50
  jeq := 0x51
  jne := 0x52
  jlt := 0x53
  jgt := 0x54
  jmpi := 0x58
  not := 0x70
  inc := 0x78
  dec := 0x79
  cmpi := 0x80
  addi := 0x88
  subi := 0x89
  muli := 0x8A
  divi := 0x8B
  modi := 0x8C
  drw := 0x90
  ld := 0x98
  ldi := 0x99
  st := 0x9A
  cmp := 0xA0
  add := 0xA8
  sub := 0xA9
  mul := 0xAA
  div := 0xAB
  mod := 0xAC
  or := 0xB1
  xor := 0xB2
  and := 0xB3

/-- 30_encoding.md R81: (a) no two operations share an opcode byte, (b) bits 7:6 of the byte are the operand count of the
operation's format. (R81 (c) holds by the decoder's form.) -/
def OpcodeMap.valid (m : OpcodeMap) : Bool :=
  Op.all.all fun o =>
    operandCount (m.byte o) == o.format.operandCount && Op.all.all fun p => o == p || m.byte o != m.byte p

/-- The operation an opcode byte selects; none where the byte is unassigned (30_encoding.md R75, R84). -/
def OpcodeMap.opOf? (m : OpcodeMap) (opcode : Byte) : Option Op :=
  Op.all.find? fun o => m.byte o == opcode

/-- The instruction of an operation with the operand latches OPA and OPB (30_encoding.md R73, R74). -/
def Op.instr (opa opb : Byte) : Op → Instr
  | .hlt => .hlt
  | .ret => .ret
  | .iret => .iret
  | .pra => .pra opa
  | .prn => .prn opa
  | .call => .call opa
  | .calli => .calli opa
  | .pop => .pop opa
  | .push => .push opa
  | .jmp => .jmp opa
  | .jeq => .jeq opa
  | .jne => .jne opa
  | .jlt => .jlt opa
  | .jgt => .jgt opa
  | .jmpi => .jmpi opa
  | .not => .not opa
  | .inc => .inc opa
  | .dec => .dec opa
  | .cmpi => .cmpi opa opb
  | .addi => .addi opa opb
  | .subi => .subi opa opb
  | .muli => .muli opa opb
  | .divi => .divi opa opb
  | .modi => .modi opa opb
  | .drw => .drw opa opb
  | .ld => .ld opa opb
  | .ldi => .ldi opa opb
  | .st => .st opa opb
  | .cmp => .cmp opa opb
  | .add => .add opa opb
  | .sub => .sub opa opb
  | .mul => .mul opa opb
  | .div => .div opa opb
  | .mod => .mod opa opb
  | .or => .or opa opb
  | .xor => .xor opa opb
  | .and => .and opa opb

/-- The dispatcher: decode(IR) with the latches, none for an unassigned opcode (30_encoding.md R70, R75). -/
def dispatch (m : OpcodeMap) (ir opa opb : Byte) : Option Instr :=
  (m.opOf? ir).map (Op.instr opa opb)

/-- What the decoder answers on a list of bytes. -/
inductive Decoded
  /-- an instruction, and the bytes after it -/
  | instr (i : Instr) (rest : List Byte)
  /-- rejected: the opcode byte is assigned to no instruction; a tick that fetches it is a no-op (30_encoding.md R84) -/
  | unassigned (opcode : Byte)
  /-- rejected: fewer bytes than the opcode's operand count asks for (cannot happen in a tick: addresses wrap, 20_memory.md R52) -/
  | truncated
  /-- rejected: the map gives the operation an opcode whose count bits differ from its format, so it is no LS-8 map (30_encoding.md R81 (b)) -/
  | countMismatch (opcode : Byte)
deriving DecidableEq, Repr

/-- Decoding a list of bytes under a map: the opcode byte, then as many operand bytes as its bits 7:6 say (30_encoding.md R71, R72, R75). -/
def decodeWith (m : OpcodeMap) : List Byte → Decoded
  | [] => .truncated
  | opcode :: rest =>
    match m.opOf? opcode with
    | none => .unassigned opcode
    | some o =>
      if o.format.operandCount = operandCount opcode then
        match o.format.operandCount, rest with
        | 0, rest => .instr (o.instr 0 0) rest
        | 1, opa :: rest => .instr (o.instr opa 0) rest
        | 2, opa :: opb :: rest => .instr (o.instr opa opb) rest
        | _, _ => .truncated
      else .countMismatch opcode

/-- Decoding under the default map of 30_encoding.md R80. -/
def decode (bytes : List Byte) : Decoded := decodeWith defaultOpc bytes

/-- The operation of an instruction. -/
def Instr.op : Instr → Op
  | .hlt => .hlt
  | .ret => .ret
  | .iret => .iret
  | .pra _ => .pra
  | .prn _ => .prn
  | .call _ => .call
  | .calli _ => .calli
  | .pop _ => .pop
  | .push _ => .push
  | .jmp _ => .jmp
  | .jeq _ => .jeq
  | .jne _ => .jne
  | .jlt _ => .jlt
  | .jgt _ => .jgt
  | .jmpi _ => .jmpi
  | .not _ => .not
  | .inc _ => .inc
  | .dec _ => .dec
  | .cmpi _ _ => .cmpi
  | .addi _ _ => .addi
  | .subi _ _ => .subi
  | .muli _ _ => .muli
  | .divi _ _ => .divi
  | .modi _ _ => .modi
  | .drw _ _ => .drw
  | .ld _ _ => .ld
  | .ldi _ _ => .ldi
  | .st _ _ => .st
  | .cmp _ _ => .cmp
  | .add _ _ => .add
  | .sub _ _ => .sub
  | .mul _ _ => .mul
  | .div _ _ => .div
  | .mod _ _ => .mod
  | .or _ _ => .or
  | .xor _ _ => .xor
  | .and _ _ => .and

/-- The operand bytes of an instruction, in their order in memory (30_encoding.md R74). -/
def Instr.operands : Instr → List Byte
  | .hlt => []
  | .ret => []
  | .iret => []
  | .pra r => [r]
  | .prn r => [r]
  | .call r => [r]
  | .calli imm => [imm]
  | .pop r => [r]
  | .push r => [r]
  | .jmp r => [r]
  | .jeq r => [r]
  | .jne r => [r]
  | .jlt r => [r]
  | .jgt r => [r]
  | .jmpi imm => [imm]
  | .not r => [r]
  | .inc r => [r]
  | .dec r => [r]
  | .cmpi r imm => [r, imm]
  | .addi r imm => [r, imm]
  | .subi r imm => [r, imm]
  | .muli r imm => [r, imm]
  | .divi r imm => [r, imm]
  | .modi r imm => [r, imm]
  | .drw a b => [a, b]
  | .ld a b => [a, b]
  | .ldi r imm => [r, imm]
  | .st a b => [a, b]
  | .cmp a b => [a, b]
  | .add a b => [a, b]
  | .sub a b => [a, b]
  | .mul a b => [a, b]
  | .div a b => [a, b]
  | .mod a b => [a, b]
  | .or a b => [a, b]
  | .xor a b => [a, b]
  | .and a b => [a, b]

/-- The operand byte that names a register (30_encoding.md R74, R78). -/
def Reg.byte : Reg → Byte
  | .r0 => 0
  | .r1 => 1
  | .r2 => 2
  | .r3 => 3
  | .r4 => 4
  | .r5 => 5
  | .r6 => 6
  | .r7 => 7

/-- The bytes of an instruction under a map, the opcode byte first (30_encoding.md R71, R74). -/
def encodeWith (m : OpcodeMap) (i : Instr) : List Byte := m.byte i.op :: i.operands

/-- The bytes of an instruction under the default map of 30_encoding.md R80. -/
def encode (i : Instr) : List Byte := encodeWith defaultOpc i

/-- The four bytes, the longest an instruction can be (30_encoding.md R86), of a number whose byte k is bits 8k+7..8k,
bits from nbits up being 0. -/
def tableBytes (nbits w : Nat) : List Byte :=
  [0, 1, 2, 3].map fun k => BitVec.ofNat 8 (w % 2 ^ nbits / 256 ^ k)

/-- The instruction the decoder reads from a word of spec/opcode_table.json. -/
def decodeTableWord (nbits w : Nat) : Option Instr :=
  match decode (tableBytes nbits w) with
  | .instr i _ => some i
  | .unassigned _ => none
  | .truncated => none
  | .countMismatch _ => none

end Sys2Proof
end

