-- ==== Sys2Proof/Machine/Params.lean ====
section
/-! DEFINITION. The default values of the OPEN parameters (00_scope.md R7; decisions D3, D4, D5, D7, D13). -/

namespace Sys2Proof.Machine

/-- IM is R5, IS is R6, VT_BASE = 0xF8, SP_RESET = 0xF4, KEY_ADDR = 0xF4 and the opcode map of 30_encoding.md R80. -/
def defaultConfig : Config where
  imIdx := .r5
  isIdx := .r6
  vtBase := 0xF8
  spReset := 0xF4
  keyAddr := 0xF4
  opc := defaultOpc

end Sys2Proof.Machine
end

