-- ==== Sys2Proof/Machine/State.lean ====
section
/-! DEFINITION. The state of the core, everything 10_state.md and 20_memory.md give it, as plain data; its value at reset;
and the reasons a step could stop, of which this core has none. -/

namespace Sys2Proof.Machine

/-- The register file R0..R7 (10_state.md R20). -/
structure Regs where
  (r0 r1 r2 r3 r4 r5 r6 r7 : Byte)
deriving DecidableEq, Repr

/-- HALT_REASON (10_state.md R32, 60_exceptions.md R242). -/
inductive HaltReason
  /-- NONE: not halted -/
  | none
  /-- HLT: the instruction HLT ran -/
  | hlt
  /-- DIV_ZERO: DIV, MOD, DIVI or MODI with divisor 0 -/
  | divZero
  /-- BAD_REGISTER: a register operand byte above 7 -/
  | badRegister
deriving DecidableEq, Repr

/-- HALT_INFO: the diagnostic record, whose fields the halt reason decides (10_state.md R32, 60_exceptions.md R242,
41_alu.md R128, R133). The spec names the fields and gives no layout: a constructor for each reason is the model's (log entry 6,
DESIGN CHOICE). -/
inductive HaltInfo
  /-- not halted -/
  | empty
  /-- HLT: PC and IR -/
  | hlt (pc ir : Byte)
  /-- DIV and MOD: PC, IR, the operand bytes a and b, dividend and divisor -/
  | divRegister (pc ir a b dividend divisor : Byte)
  /-- DIVI and MODI: PC, IR, the register byte r, the immediate (which is the divisor) and the dividend -/
  | divImmediate (pc ir r imm dividend : Byte)
  /-- BAD_REGISTER: PC, IR and the operand bytes -/
  | badRegister (pc ir : Byte) (operands : List Byte)
deriving DecidableEq, Repr

/-- An event on the display port (00_scope.md R8 (d), 44_system.md R211). -/
inductive DisplayEvent
  | emitChar (v : Byte)
  | emitNumber (v : Byte)
  | plot (x y : Byte)
deriving DecidableEq, Repr

/-- The whole state of the core (10_state.md section 1) with its memory (20_memory.md R50). -/
@[ext]
structure State where
  /-- R0..R7; R5 = IM, R6 = IS and R7 = SP are aliases of these (10_state.md R20-R22) -/
  regs : Regs
  /-- the program counter (10_state.md R24) -/
  pc : Byte
  /-- the flags register FL (10_state.md R25) -/
  fl : Byte
  /-- IE, the global interrupts-enabled latch (10_state.md R28) -/
  ie : Bool
  /-- IR, the opcode byte of the current instruction (10_state.md R29) -/
  ir : Byte
  /-- OPA, the first operand latch (10_state.md R30) -/
  opa : Byte
  /-- OPB, the second operand latch (10_state.md R30) -/
  opb : Byte
  /-- PCSET: this tick's instruction has set PC (10_state.md R31) -/
  pcset : Bool
  /-- HALTED (10_state.md R32) -/
  halted : Bool
  /-- HALT_REASON (10_state.md R32) -/
  haltReason : HaltReason
  /-- HALT_INFO (10_state.md R32) -/
  haltInfo : HaltInfo
  /-- OUT: the display events sent, the oldest first (10_state.md R35) -/
  out : List DisplayEvent
  /-- the 256 memory bytes: the cells whose byte is not 0, addresses rising (20_memory.md R50; log entry 8) -/
  mem : List Host.Cell
  /-- the OPEN parameters, which no step changes (00_scope.md R7; log entry 1) -/
  cfg : Config
deriving DecidableEq, Repr

/-- No instruction and no tick of this core faults: it has no trap, and an error halts it, which is a next state
(60_exceptions.md R240, R241). So there is no reason to name; that is exact, neither safe nor unsafe. -/
inductive Fault
deriving DecidableEq, Repr

/-- Why a step would have no meaning. -/
inductive Refusal
  /-- Raised by an arm of `exec` whose instruction has no meaning yet. No arm is left in that case. Safe. -/
  | notModelled (mnemonic : String)
deriving DecidableEq, Repr

/-- What a meaning answers. -/
abbrev Result := Host.Outcome State Fault Refusal

/-- The state at reset for given OPEN parameters, memory holding 0x00 everywhere (10_state.md R36,
70_reset_and_hazards.md R280, R281). -/
def State.resetWith (c : Config) : State where
  regs := { r0 := 0, r1 := 0, r2 := 0, r3 := 0, r4 := 0, r5 := 0, r6 := 0, r7 := c.spReset }
  pc := 0
  fl := 0
  ie := true
  ir := 0
  opa := 0
  opb := 0
  pcset := false
  halted := false
  haltReason := .none
  haltInfo := .empty
  out := []
  mem := []
  cfg := c

/-- The state at reset with the default parameters of 00_scope.md R7. -/
def State.reset : State := State.resetWith defaultConfig

end Sys2Proof.Machine
end

