-- ==== Sys2Proof/Machine/Ops.lean ====
section
/-! DEFINITION. The named operations over memory and registers: memory, the register file, the stack engine, halting, the
display port, control transfer, the fetch unit, the PC advance, taking an interrupt and returning from one. -/

namespace Sys2Proof.Machine

/-! ### Memory (20_memory.md) -/

/-- What an unlisted address reads as: memory is 0x00 before anything is written (70_reset_and_hazards.md R281). -/
def memDefault : Byte := 0

/-- The byte at an address (20_memory.md R53, R55). -/
def memLookup : List Host.Cell → Nat → Byte
  | [], _ => memDefault
  | (c, w) :: rest, a => if c = a then w else memLookup rest a

/-- Storing a byte, keeping the canonical form: addresses rising, no cell that holds what an unlisted address reads as. -/
def memStore : List Host.Cell → Nat → Byte → List Host.Cell
  | [], a, v => if v = memDefault then [] else [(a, v)]
  | (c, w) :: rest, a, v =>
    if a < c then
      if v = memDefault then (c, w) :: rest else (a, v) :: (c, w) :: rest
    else if a = c then
      if v = memDefault then rest else (a, v) :: rest
    else (c, w) :: memStore rest a v

/-- The cells stand at strictly rising addresses from `low` up, below 256 (20_memory.md R50), and none holds `memDefault`. -/
def memCanonicalFrom : Nat → List Host.Cell → Bool
  | _, [] => true
  | low, (c, w) :: rest => low ≤ c && c < 256 && w != memDefault && memCanonicalFrom (c + 1) rest

/-- The canonical form of memory: equal memories are equal lists. -/
def Memory.wf (m : List Host.Cell) : Bool := memCanonicalFrom 0 m

/-- `MemRead(a, 1)` (00_scope.md R10, 20_memory.md R53). -/
def State.memRead (s : State) (a : Byte) : Byte := memLookup s.mem a.toNat

/-- `MemWrite(a, 1, v)` (00_scope.md R10, 20_memory.md R53). -/
def State.memWrite (a v : Byte) (s : State) : State := { s with mem := memStore s.mem a.toNat v }

/-! ### The register file (10_state.md R20-R23) -/

/-- Reading a register. -/
def regsRead (g : Regs) : Reg → Byte
  | .r0 => g.r0
  | .r1 => g.r1
  | .r2 => g.r2
  | .r3 => g.r3
  | .r4 => g.r4
  | .r5 => g.r5
  | .r6 => g.r6
  | .r7 => g.r7

/-- Writing a register. No register is hard-wired or protected (10_state.md R20, R33). -/
def regsWrite (g : Regs) (v : Byte) : Reg → Regs
  | .r0 => { g with r0 := v }
  | .r1 => { g with r1 := v }
  | .r2 => { g with r2 := v }
  | .r3 => { g with r3 := v }
  | .r4 => { g with r4 := v }
  | .r5 => { g with r5 := v }
  | .r6 => { g with r6 := v }
  | .r7 => { g with r7 := v }

/-- `x[i]`. -/
def State.reg (s : State) (r : Reg) : Byte := regsRead s.regs r

/-- `x[i] <- v`. -/
def State.setReg (r : Reg) (v : Byte) (s : State) : State := { s with regs := regsWrite s.regs v r }

/-- SP is R7; SP_IDX is not an OPEN parameter (10_state.md R21). -/
def State.sp (s : State) : Byte := s.reg .r7

/-- IM, the register that IM_IDX names (10_state.md R22). -/
def State.im (s : State) : Byte := s.reg s.cfg.imIdx

/-- IS, the register that IS_IDX names (10_state.md R22). -/
def State.is (s : State) : Byte := s.reg s.cfg.isIdx

/-- Writing IS. -/
def State.setIs (v : Byte) (s : State) : State := s.setReg s.cfg.isIdx v

/-! ### Other state -/

/-- Writing FL whole (10_state.md R26). -/
def State.setFl (v : Byte) (s : State) : State := { s with fl := v }

/-- Writing IE; only interrupt entry and IRET do (10_state.md R28). -/
def State.setIe (v : Bool) (s : State) : State := { s with ie := v }

/-- Writing PC without setting PCSET (the advance, and interrupt entry). -/
def State.setPc (v : Byte) (s : State) : State := { s with pc := v }

/-- Writing PCSET (10_state.md R31). -/
def State.setPcset (v : Bool) (s : State) : State := { s with pcset := v }

/-- A control transfer: `PC <- target; PCSET <- 1` (00_scope.md R10, 42_control.md R160). -/
def State.transfer (target : Byte) (s : State) : State := (s.setPc target).setPcset true

/-- `emit(event)`: OUT grows by one event at its end (10_state.md R35, 44_system.md R211). -/
def State.emit (e : DisplayEvent) (s : State) : State := { s with out := s.out ++ [e] }

/-- `halt(reason, info)`: writes the halt state and nothing else (60_exceptions.md R241). -/
def State.halt (reason : HaltReason) (info : HaltInfo) (s : State) : State :=
  { s with halted := true, haltReason := reason, haltInfo := info }

/-! ### The stack engine (43_stack.md R190-R192) -/

/-- The address a push writes: SP - 1, wrapping from 0x00 to 0xFF (43_stack.md R190, 20_memory.md R52). -/
def State.pushAddress (s : State) : Byte := s.sp - 1

/-- `push(v)`: SP goes down by one, then v is stored at the new SP (43_stack.md R190). -/
def State.push (v : Byte) (s : State) : State := (s.setReg .r7 s.pushAddress).memWrite s.pushAddress v

/-- `pop()`: the byte at SP, and the state with SP one higher (43_stack.md R191). -/
def State.pop (s : State) : Byte × State := (s.memRead s.sp, s.setReg .r7 (s.sp + 1))

/-- `x[r] <- pop()`: the register is written after SP has risen, so `r = R7` ends with the popped byte (43_stack.md R196). -/
def State.popInto (r : Reg) (s : State) : State := s.pop.2.setReg r s.pop.1

/-! ### The fetch unit and the PC advance (30_encoding.md R71, R76) -/

/-- `fetch()`: IR, then the operand latches that the opcode's operand count fills; a latch not filled keeps its value
(30_encoding.md R71, 10_state.md R30). Addresses wrap (20_memory.md R52). -/
def State.fetch (s : State) : State :=
  let ir := s.memRead s.pc
  let n := operandCount ir
  { s with
    ir := ir
    opa := if 1 ≤ n then s.memRead (s.pc + 1) else s.opa
    opb := if 2 ≤ n then s.memRead (s.pc + 2) else s.opb }

/-- The dispatcher's last step: unless the core has halted or PCSET is 1, `PC <- (PC + 1 + n) mod 256`
(30_encoding.md R70, R76). -/
def State.advance (s : State) : State :=
  if s.halted || s.pcset then s else s.setPc (s.pc + BitVec.ofNat 8 (instrLength s.ir))

/-- The operand bytes of the instruction in IR as the latches hold them (30_encoding.md R71, R72). -/
def State.operandBytes (s : State) : List Byte := [s.opa, s.opb].take (operandCount s.ir)

/-! ### The interrupt controller (60_exceptions.md R243-R249) -/

/-- The arbiter: the lowest-numbered line whose bit is 1 (60_exceptions.md R244). -/
def lowestLine (pending : Byte) : Option (Fin 8) :=
  [0, 1, 2, 3, 4, 5, 6, 7].find? fun i : Fin 8 => pending.getLsbD i.val

/-- The interrupt check: the line to take, none where IE = 0 or `IS & IM` is 0 (60_exceptions.md R243). -/
def State.lineToTake? (s : State) : Option (Fin 8) :=
  if s.ie then lowestLine (s.is &&& s.im) else none

/-- The byte with only the bit of a line set: `1 << i`. -/
def lineBit (i : Fin 8) : Byte := BitVec.ofNat 8 (2 ^ i.val)

/-- The registers that interrupt entry saves, in the order it pushes them (60_exceptions.md R246). -/
def savedRegs : List Reg := [.r0, .r1, .r2, .r3, .r4, .r5, .r6]

/-- Taking an interrupt: the whole entry sequence for line i (60_exceptions.md R249). IE and the line's IS bit are cleared
first, then PC, FL and R0..R6 are pushed, then PC is read from the vector table. -/
def State.interruptEntry (i : Fin 8) (s : State) : State :=
  let s₁ := (s.setIe false).setIs (s.is &&& ~~~ lineBit i)
  let s₂ := (s₁.push s₁.pc).push s₁.fl
  let s₃ := savedRegs.foldl (fun t r => t.push (t.reg r)) s₂
  s₃.setPc (s₃.memRead (s₃.cfg.vtBase + BitVec.ofNat 8 i.val))

/-- Returning from an interrupt: R6..R0, then FL, then PC are popped and IE is set; a control transfer
(44_system.md R220). Nine bytes are popped with no check. -/
def State.interruptReturn (s : State) : State :=
  let s₁ := savedRegs.reverse.foldl (fun t r => t.popInto r) s
  let s₂ := s₁.pop.2.setFl s₁.pop.1
  (s₂.pop.2.setIe true).transfer s₂.pop.1

end Sys2Proof.Machine
end

