-- ==== Sys2Proof/Machine/Flags.lean ====
section
/-! DEFINITION. The flags register FL: what a comparison writes and what the conditional jumps read (10_state.md R25-R27). -/

namespace Sys2Proof.Machine

/-- The FL value of a comparison, unsigned: exactly one of E, G, L is 1 and bits 7:3 are 0 (41_alu.md R140, R122). -/
def compareFlags (x y : Byte) : Byte :=
  if x.toNat = y.toNat then 0b00000001
  else if x.toNat > y.toNat then 0b00000010
  else 0b00000100

/-- FL[0], Equal (10_state.md R25). -/
def flagE (fl : Byte) : Bool := fl.getLsbD 0

/-- FL[1], Greater-Than (10_state.md R25). -/
def flagG (fl : Byte) : Bool := fl.getLsbD 1

/-- FL[2], Less-Than (10_state.md R25). -/
def flagL (fl : Byte) : Bool := fl.getLsbD 2

end Sys2Proof.Machine
end

