-- ==== Sys2Proof/Machine/Operands.lean ====
section
/-! DEFINITION. The operand forms (30_encoding.md R73, R74, R78, R79): register operand bytes and the BAD_REGISTER halt.
An immediate is the raw byte and needs no operation (R79). -/

namespace Sys2Proof.Machine

/-- The register that a register operand byte names; none above 7 (30_encoding.md R78). -/
def regOf? (k : Byte) : Option Reg :=
  match k.toNat with
  | 0 => some .r0
  | 1 => some .r1
  | 2 => some .r2
  | 3 => some .r3
  | 4 => some .r4
  | 5 => some .r5
  | 6 => some .r6
  | 7 => some .r7
  | _ => none

/-- The halt of an instruction whose register operand byte names no register (30_encoding.md R78, 60_exceptions.md R242). -/
def State.badRegister (s : State) : State := s.halt .badRegister (.badRegister s.pc s.ir s.operandBytes)

/-- A form with one register operand: the check, then the effect (40_data_movement.md R100). -/
def withReg (k : Byte) (s : State) (effect : Reg → State) : Result :=
  match regOf? k with
  | some r => .next (effect r)
  | none => .next s.badRegister

/-- A form with two register operands: both are checked before any effect (40_data_movement.md R100). -/
def withRegs (a b : Byte) (s : State) (effect : Reg → Reg → State) : Result :=
  match regOf? a, regOf? b with
  | some ra, some rb => .next (effect ra rb)
  | _, _ => .next s.badRegister

end Sys2Proof.Machine
end

