-- ==== Sys2Proof/Machine/Alu.lean ====
section
/-! DEFINITION. The ALU: arithmetic, comparison and logic (41_alu.md). Results are computed on integers and then reduced
modulo 256 (R121); everything is unsigned (R122); only CMP and CMPI write FL (R124). -/

namespace Sys2Proof.Machine

/-! ### The ALU's functions of two values (41_alu.md R120-R123) -/

/-- `(s + t) mod 256`. -/
def aluAdd (x y : Byte) : Byte := BitVec.ofNat 8 ((x.toNat + y.toNat) % 256)

/-- `(s - t) mod 256`: a negative difference gives 256 plus it (41_alu.md R121). -/
def aluSub (x y : Byte) : Byte := BitVec.ofNat 8 ((256 + x.toNat - y.toNat) % 256)

/-- `(s * t) mod 256`. -/
def aluMul (x y : Byte) : Byte := BitVec.ofNat 8 (x.toNat * y.toNat % 256)

/-- `floor(s / t)`, for t not 0 (41_alu.md R123). -/
def aluDiv (x y : Byte) : Byte := BitVec.ofNat 8 (x.toNat / y.toNat)

/-- `s - t * floor(s / t)`, for t not 0 (41_alu.md R123). -/
def aluMod (x y : Byte) : Byte := BitVec.ofNat 8 (x.toNat - y.toNat * (x.toNat / y.toNat))

/-! ### The forms (41_alu.md R120) -/

/-- Register-register: `s <- x[a]; t <- x[b]; x[a] <- f(s, t)`. -/
def aluRegReg (f : Byte → Byte → Byte) (a b : Byte) (s : State) : Result :=
  withRegs a b s fun ra rb => s.setReg ra (f (s.reg ra) (s.reg rb))

/-- Register-immediate: `s <- x[r]; x[r] <- f(s, imm)`. -/
def aluRegImm (f : Byte → Byte → Byte) (r imm : Byte) (s : State) : Result :=
  withReg r s fun rr => s.setReg rr (f (s.reg rr) imm)

/-- Unary: `s <- x[r]; x[r] <- f(s)`. -/
def aluUnary (f : Byte → Byte) (r : Byte) (s : State) : Result :=
  withReg r s fun rr => s.setReg rr (f (s.reg rr))

/-- Division, register-register: a zero divisor halts with DIV_ZERO and writes no register (41_alu.md R123, R128, R129). -/
def divideRegReg (f : Byte → Byte → Byte) (a b : Byte) (s : State) : Result :=
  withRegs a b s fun ra rb =>
    if s.reg rb = 0 then s.halt .divZero (.divRegister s.pc s.ir s.opa s.opb (s.reg ra) (s.reg rb))
    else s.setReg ra (f (s.reg ra) (s.reg rb))

/-- Division, register-immediate: a zero immediate halts with DIV_ZERO (41_alu.md R123, R133, R134). -/
def divideRegImm (f : Byte → Byte → Byte) (r imm : Byte) (s : State) : Result :=
  withReg r s fun rr =>
    if imm = 0 then s.halt .divZero (.divImmediate s.pc s.ir s.opa imm (s.reg rr))
    else s.setReg rr (f (s.reg rr) imm)

/-! ### The instructions -/

/-- ADD (41_alu.md R125). -/
def execAdd (a b : Byte) (s : State) : Result := aluRegReg aluAdd a b s

/-- SUB (41_alu.md R126). -/
def execSub (a b : Byte) (s : State) : Result := aluRegReg aluSub a b s

/-- MUL (41_alu.md R127). -/
def execMul (a b : Byte) (s : State) : Result := aluRegReg aluMul a b s

/-- DIV (41_alu.md R128). -/
def execDiv (a b : Byte) (s : State) : Result := divideRegReg aluDiv a b s

/-- MOD (41_alu.md R129). -/
def execMod (a b : Byte) (s : State) : Result := divideRegReg aluMod a b s

/-- ADDI (41_alu.md R130). -/
def execAddi (r imm : Byte) (s : State) : Result := aluRegImm aluAdd r imm s

/-- SUBI (41_alu.md R131). -/
def execSubi (r imm : Byte) (s : State) : Result := aluRegImm aluSub r imm s

/-- MULI (41_alu.md R132). -/
def execMuli (r imm : Byte) (s : State) : Result := aluRegImm aluMul r imm s

/-- DIVI (41_alu.md R133). -/
def execDivi (r imm : Byte) (s : State) : Result := divideRegImm aluDiv r imm s

/-- MODI (41_alu.md R134). -/
def execModi (r imm : Byte) (s : State) : Result := divideRegImm aluMod r imm s

/-- INC (41_alu.md R135): `x[r] <- (s + 1) mod 256`. -/
def execInc (r : Byte) (s : State) : Result := aluUnary (fun x => aluAdd x 1) r s

/-- DEC (41_alu.md R136): `x[r] <- (s - 1) mod 256`. -/
def execDec (r : Byte) (s : State) : Result := aluUnary (fun x => aluSub x 1) r s

/-- CMP (41_alu.md R140): FL is overwritten whole, no register changes. -/
def execCmp (a b : Byte) (s : State) : Result :=
  withRegs a b s fun ra rb => s.setFl (compareFlags (s.reg ra) (s.reg rb))

/-- CMPI (41_alu.md R141). -/
def execCmpi (r imm : Byte) (s : State) : Result :=
  withReg r s fun rr => s.setFl (compareFlags (s.reg rr) imm)

/-- AND (41_alu.md R145). -/
def execAnd (a b : Byte) (s : State) : Result := aluRegReg (fun x y => x &&& y) a b s

/-- OR (41_alu.md R146). -/
def execOr (a b : Byte) (s : State) : Result := aluRegReg (fun x y => x ||| y) a b s

/-- XOR (41_alu.md R147). -/
def execXor (a b : Byte) (s : State) : Result := aluRegReg (fun x y => x ^^^ y) a b s

/-- NOT (41_alu.md R148): the 8-bit complement. -/
def execNot (r : Byte) (s : State) : Result := aluUnary (fun x => ~~~ x) r s

end Sys2Proof.Machine
end

