-- ==== Sys2Proof/Machine/Control.lean ====
section
/-! DEFINITION. Control transfer and subroutine linkage: JMP, JMPI, JEQ, JNE, JGT, JLT, CALL, CALLI, RET (42_control.md). -/

namespace Sys2Proof.Machine

/-- A conditional jump to x[r]: taken it is a control transfer, untaken it changes nothing and the tick advances PC by 2
(42_control.md R165-R168, 30_encoding.md R77). The register operand is checked either way (R165). -/
def jumpIf (taken : Bool) (r : Byte) (s : State) : Result :=
  withReg r s fun rr => if taken then s.transfer (s.reg rr) else s

/-- The return address of a call, `(PC + 2) mod 256` (42_control.md R161). -/
def State.returnAddress (s : State) : Byte := s.pc + 2

/-- A call: the return address is pushed, then control goes to the target (42_control.md R170, R171). -/
def State.call (target : Byte) (s : State) : State := (s.push s.returnAddress).transfer target

/-- JMP (42_control.md R163). -/
def execJmp (r : Byte) (s : State) : Result := withReg r s fun rr => s.transfer (s.reg rr)

/-- JMPI (42_control.md R164). -/
def execJmpi (imm : Byte) (s : State) : Result := .next (s.transfer imm)

/-- JEQ (42_control.md R165): taken if FL[0] = 1. -/
def execJeq (r : Byte) (s : State) : Result := jumpIf (flagE s.fl) r s

/-- JNE (42_control.md R166): taken if FL[0] = 0. -/
def execJne (r : Byte) (s : State) : Result := jumpIf (!flagE s.fl) r s

/-- JGT (42_control.md R167): taken if FL[1] = 1. -/
def execJgt (r : Byte) (s : State) : Result := jumpIf (flagG s.fl) r s

/-- JLT (42_control.md R168): taken if FL[2] = 1. -/
def execJlt (r : Byte) (s : State) : Result := jumpIf (flagL s.fl) r s

/-- CALL (42_control.md R170): the target is read before the push, so `CALL R7` goes to the old SP. -/
def execCall (r : Byte) (s : State) : Result := withReg r s fun rr => s.call (s.reg rr)

/-- CALLI (42_control.md R171). -/
def execCalli (imm : Byte) (s : State) : Result := .next (s.call imm)

/-- RET (42_control.md R172): `v <- pop(); PC <- v; PCSET <- 1`. -/
def execRet (s : State) : Result := .next (s.pop.2.transfer s.pop.1)

end Sys2Proof.Machine
end

