-- ==== Sys2Proof/Machine/DataMovement.lean ====
section
/-! DEFINITION. Data movement: LD, LDI, ST (40_data_movement.md). -/

namespace Sys2Proof.Machine

/-- LD (40_data_movement.md R101): `addr <- x[b]; v <- MemRead(addr, 1); x[a] <- v`. -/
def execLd (a b : Byte) (s : State) : Result :=
  withRegs a b s fun ra rb => s.setReg ra (s.memRead (s.reg rb))

/-- LDI (40_data_movement.md R102): `x[r] <- imm`. -/
def execLdi (r imm : Byte) (s : State) : Result :=
  withReg r s fun rr => s.setReg rr imm

/-- ST (40_data_movement.md R103): `addr <- x[a]; v <- x[b]; MemWrite(addr, 1, v)`. -/
def execSt (a b : Byte) (s : State) : Result :=
  withRegs a b s fun ra rb => s.memWrite (s.reg ra) (s.reg rb)

end Sys2Proof.Machine
end

