-- ==== Sys2Proof/Machine/Stack.lean ====
section
/-! DEFINITION. PUSH and POP over the stack engine (43_stack.md). -/

namespace Sys2Proof.Machine

/-- PUSH (43_stack.md R195): the register is read before SP moves, so `PUSH R7` stores the old SP. -/
def execPush (r : Byte) (s : State) : Result := withReg r s fun rr => s.push (s.reg rr)

/-- POP (43_stack.md R196): `v <- pop(); x[r] <- v`. -/
def execPop (r : Byte) (s : State) : Result := withReg r s fun rr => s.popInto rr

end Sys2Proof.Machine
end

