-- ==== Sys2Proof/Machine/System.lean ====
section
/-! DEFINITION. Halt, display output and interrupt return: HLT, PRN, PRA, DRW, IRET (44_system.md). -/

namespace Sys2Proof.Machine

/-- HLT (44_system.md R210): `halt(HLT, (PC, IR))`; PC stays. -/
def execHlt (s : State) : Result := .next (s.halt .hlt (.hlt s.pc s.ir))

/-- PRN (44_system.md R212): sends `EmitNumber(x[r])`. -/
def execPrn (r : Byte) (s : State) : Result := withReg r s fun rr => s.emit (.emitNumber (s.reg rr))

/-- PRA (44_system.md R213): sends `EmitChar(x[r])`. -/
def execPra (r : Byte) (s : State) : Result := withReg r s fun rr => s.emit (.emitChar (s.reg rr))

/-- DRW (44_system.md R214): sends `Plot(x[a], x[b])`. -/
def execDrw (a b : Byte) (s : State) : Result :=
  withRegs a b s fun ra rb => s.emit (.plot (s.reg ra) (s.reg rb))

/-- IRET (44_system.md R220). -/
def execIret (s : State) : Result := .next s.interruptReturn

end Sys2Proof.Machine
end

