-- ==== Sys2Proof/Machine/Dispatch.lean ====
section
/-! DEFINITION. The dispatcher's handlers: one arm per constructor of `Instr`, each a call of that instruction's meaning
(30_encoding.md R75). The PC advance is not here: the tick makes it after the handler (R76). -/

namespace Sys2Proof.Machine

def exec (i : Instr) (s : State) : Host.Outcome State Fault Refusal :=
  match i with
  | .hlt => Sys2Proof.Machine.execHlt s
  | .ret => Sys2Proof.Machine.execRet s
  | .iret => Sys2Proof.Machine.execIret s
  | .pra r => Sys2Proof.Machine.execPra r s
  | .prn r => Sys2Proof.Machine.execPrn r s
  | .call r => Sys2Proof.Machine.execCall r s
  | .calli imm => Sys2Proof.Machine.execCalli imm s
  | .pop r => Sys2Proof.Machine.execPop r s
  | .push r => Sys2Proof.Machine.execPush r s
  | .jmp r => Sys2Proof.Machine.execJmp r s
  | .jeq r => Sys2Proof.Machine.execJeq r s
  | .jne r => Sys2Proof.Machine.execJne r s
  | .jlt r => Sys2Proof.Machine.execJlt r s
  | .jgt r => Sys2Proof.Machine.execJgt r s
  | .jmpi imm => Sys2Proof.Machine.execJmpi imm s
  | .not r => Sys2Proof.Machine.execNot r s
  | .inc r => Sys2Proof.Machine.execInc r s
  | .dec r => Sys2Proof.Machine.execDec r s
  | .cmpi r imm => Sys2Proof.Machine.execCmpi r imm s
  | .addi r imm => Sys2Proof.Machine.execAddi r imm s
  | .subi r imm => Sys2Proof.Machine.execSubi r imm s
  | .muli r imm => Sys2Proof.Machine.execMuli r imm s
  | .divi r imm => Sys2Proof.Machine.execDivi r imm s
  | .modi r imm => Sys2Proof.Machine.execModi r imm s
  | .drw a b => Sys2Proof.Machine.execDrw a b s
  | .ld a b => Sys2Proof.Machine.execLd a b s
  | .ldi r imm => Sys2Proof.Machine.execLdi r imm s
  | .st a b => Sys2Proof.Machine.execSt a b s
  | .cmp a b => Sys2Proof.Machine.execCmp a b s
  | .add a b => Sys2Proof.Machine.execAdd a b s
  | .sub a b => Sys2Proof.Machine.execSub a b s
  | .mul a b => Sys2Proof.Machine.execMul a b s
  | .div a b => Sys2Proof.Machine.execDiv a b s
  | .mod a b => Sys2Proof.Machine.execMod a b s
  | .or a b => Sys2Proof.Machine.execOr a b s
  | .xor a b => Sys2Proof.Machine.execXor a b s
  | .and a b => Sys2Proof.Machine.execAnd a b s

end Sys2Proof.Machine
end

