-- ==== Sys2Proof/Machine/Tick.lean ====
section
/-! DEFINITION. The tick (30_encoding.md R70), and placing bytes where it fetches. -/

namespace Sys2Proof.Machine

/-- `execute(decode(IR), OPA, OPB)`: the handler the dispatcher selects, or the no-op of an unassigned opcode
(30_encoding.md R70, R75, R84). -/
def State.execute (s : State) : Result :=
  match dispatch s.cfg.opc s.ir s.opa s.opb with
  | none => .next s
  | some i => exec i s

/-- One tick (30_encoding.md R70): a halted core changes nothing; PCSET is cleared; an interrupt that is pending, enabled
and not masked is taken and is the whole tick; otherwise one instruction is fetched and executed and PC advances. -/
def State.tick (s : State) : Result :=
  if s.halted then .next s
  else
    let s₁ := s.setPcset false
    match s₁.lineToTake? with
    | some i => .next (s₁.interruptEntry i)
    | none =>
      match s₁.fetch.execute with
      | .next t => .next t.advance
      | .fault r => .fault r
      | .refused r => .refused r

/-- Bytes stored from PC on, addresses wrapping. -/
def State.placeAtPc (bytes : List Byte) (s : State) : State :=
  (bytes.foldl (fun (p : Byte × State) b => (p.1 + 1, p.2.memWrite p.1 b)) (s.pc, s)).2

end Sys2Proof.Machine
end

