-- ==== Sys2Proof/Machine/Step.lean ====
section
/-! DEFINITION. The step of the machine, which is one tick, and the placing of one instruction where the next tick fetches. -/

namespace Sys2Proof.Machine

/-- One step is one tick of the core (30_encoding.md R70). -/
def step (s : State) : Host.Outcome State Fault Refusal := s.tick

/-- The state with the four bytes of a word of spec/opcode_table.json stored from PC on, where a tick of a core that is not
halted and takes no interrupt fetches (log entry 9). -/
def State.withFetchWord (s : State) (nbits w : Nat) : State := s.placeAtPc (tableBytes nbits w)

end Sys2Proof.Machine
end

