-- ==== Sys2Proof/Machine/Assembly.lean ====
section
/-! DEFINITION. Assembly text (30_encoding.md R87, decision D14): a mnemonic, then operands separated by a comma or a space;
registers are R0..R7, immediates decimal or hexadecimal with 0x. A line is a list of characters. There are no
pseudo-instructions. -/

namespace Sys2Proof.Machine

/-- The mnemonic of every operation (30_encoding.md R80). -/
def mnemonicChars : Op → List Char
  | .hlt => ['H', 'L', 'T']
  | .ret => ['R', 'E', 'T']
  | .iret => ['I', 'R', 'E', 'T']
  | .pra => ['P', 'R', 'A']
  | .prn => ['P', 'R', 'N']
  | .call => ['C', 'A', 'L', 'L']
  | .calli => ['C', 'A', 'L', 'L', 'I']
  | .pop => ['P', 'O', 'P']
  | .push => ['P', 'U', 'S', 'H']
  | .jmp => ['J', 'M', 'P']
  | .jeq => ['J', 'E', 'Q']
  | .jne => ['J', 'N', 'E']
  | .jlt => ['J', 'L', 'T']
  | .jgt => ['J', 'G', 'T']
  | .jmpi => ['J', 'M', 'P', 'I']
  | .not => ['N', 'O', 'T']
  | .inc => ['I', 'N', 'C']
  | .dec => ['D', 'E', 'C']
  | .cmpi => ['C', 'M', 'P', 'I']
  | .addi => ['A', 'D', 'D', 'I']
  | .subi => ['S', 'U', 'B', 'I']
  | .muli => ['M', 'U', 'L', 'I']
  | .divi => ['D', 'I', 'V', 'I']
  | .modi => ['M', 'O', 'D', 'I']
  | .drw => ['D', 'R', 'W']
  | .ld => ['L', 'D']
  | .ldi => ['L', 'D', 'I']
  | .st => ['S', 'T']
  | .cmp => ['C', 'M', 'P']
  | .add => ['A', 'D', 'D']
  | .sub => ['S', 'U', 'B']
  | .mul => ['M', 'U', 'L']
  | .div => ['D', 'I', 'V']
  | .mod => ['M', 'O', 'D']
  | .or => ['O', 'R']
  | .xor => ['X', 'O', 'R']
  | .and => ['A', 'N', 'D']

/-- The value of a digit in a base up to 16, upper or lower case. -/
def digitOf? (base : Nat) (c : Char) : Option Nat :=
  let n := c.toNat
  let v :=
    if 48 ≤ n ∧ n ≤ 57 then n - 48
    else if 65 ≤ n ∧ n ≤ 70 then n - 55
    else if 97 ≤ n ∧ n ≤ 102 then n - 87
    else 16
  if v < base then some v else none

/-- Digits read on top of a value. -/
def digitsFrom (base : Nat) : Nat → List Char → Option Nat
  | acc, [] => some acc
  | acc, c :: cs =>
    match digitOf? base c with
    | some v => digitsFrom base (base * acc + v) cs
    | none => none

/-- A number 0..255, decimal, or hexadecimal after `0x` (30_encoding.md R87, R79). -/
def numberOf? (token : List Char) : Option Byte :=
  let value :=
    match token with
    | [] => none
    | ['0', 'x'] => none
    | '0' :: 'x' :: digits => digitsFrom 16 0 digits
    | digits => digitsFrom 10 0 digits
  match value with
  | some v => if v < 256 then some (BitVec.ofNat 8 v) else none
  | none => none

/-- A register operand R0..R7, as its operand byte (30_encoding.md R87, R78). -/
def registerOf? : List Char → Option Byte
  | ['R', c] =>
    match digitOf? 8 c with
    | some v => some (BitVec.ofNat 8 v)
    | none => none
  | _ => none

/-- The tokens of a line: it is cut at spaces and commas. `current` is the token begun, in reverse. -/
def tokensFrom : List Char → List Char → List (List Char)
  | [], [] => []
  | current, [] => [current.reverse]
  | current, c :: cs =>
    if c == ' ' || c == ',' then
      match current with
      | [] => tokensFrom [] cs
      | _ => current.reverse :: tokensFrom [] cs
    else tokensFrom (c :: current) cs

/-- The operation and operand bytes as the operation's format takes them (30_encoding.md R74, R87). -/
def assembleOp (o : Op) (operands : List (List Char)) : Option Instr :=
  match o.format, operands with
  | .f0, [] => some (o.instr 0 0)
  | .f1r, [r] => (registerOf? r).map fun opa => o.instr opa 0
  | .f1i, [imm] => (numberOf? imm).map fun opa => o.instr opa 0
  | .f2rr, [a, b] =>
    match registerOf? a, registerOf? b with
    | some opa, some opb => some (o.instr opa opb)
    | _, _ => none
  | .f2ri, [r, imm] =>
    match registerOf? r, numberOf? imm with
    | some opa, some opb => some (o.instr opa opb)
    | _, _ => none
  | _, _ => none

/-- The instruction that an assembly line writes; none where it writes none. -/
def assemble (line : List Char) : Option Instr :=
  match tokensFrom [] line with
  | [] => none
  | m :: operands =>
    match Op.all.find? fun o => mnemonicChars o == m with
    | some o => assembleOp o operands
    | none => none

/-- A register operand as it is written, R0..R7 for a byte that names a register (30_encoding.md R87). -/
def registerChars (k : Byte) : List Char := 'R' :: Nat.toDigits 10 k.toNat

/-- The operands as they are written, in the order of the format, immediates in decimal (30_encoding.md R74, R87). -/
def operandChars (f : Format) (opa opb : Byte) : List (List Char) :=
  match f with
  | .f0 => []
  | .f1r => [registerChars opa]
  | .f1i => [Nat.toDigits 10 opa.toNat]
  | .f2rr => [registerChars opa, registerChars opb]
  | .f2ri => [registerChars opa, Nat.toDigits 10 opb.toNat]

/-- The assembly line of an instruction with well-formed operands: the mnemonic, a space, and the operands with a comma and a
space between them (30_encoding.md R87). -/
def assemblyLine (i : Instr) : List Char :=
  let operands := operandChars i.op.format (i.operands.getD 0 0) (i.operands.getD 1 0)
  match operands with
  | [] => mnemonicChars i.op
  | first :: rest => mnemonicChars i.op ++ ' ' :: first ++ rest.flatMap fun o => ',' :: ' ' :: o

end Sys2Proof.Machine
end

