-- ==== Sys2Proof/Machine/Environment.lean ====
section
/-! DEFINITION. What the environment does between ticks: an interrupt line raised, a key press
(60_exceptions.md R250, R251; 70_reset_and_hazards.md R292). A claim about a machine with its peripherals speaks of every
list of moves; a claim about `step` alone is about one tick (log entry 4). -/

namespace Sys2Proof.Machine

/-- `raise(i)`: `IS <- IS | (1 << i)`, only while the core is not halted (60_exceptions.md R250, R241). -/
def State.raiseLine (i : Fin 8) (s : State) : State :=
  if s.halted then s else s.setIs (s.is ||| lineBit i)

/-- A key press: the byte is stored at KEY_ADDR, then line 1 is raised, as one move and only while the core is not halted
(60_exceptions.md R251, R241; decision D23). -/
def State.keyPress (key : Byte) (s : State) : State :=
  if s.halted then s else (s.memWrite s.cfg.keyAddr key).raiseLine 1

/-- The moves of the core and its environment (70_reset_and_hazards.md R292, 00_scope.md R9). -/
inductive Move
  | tick
  | raise (i : Fin 8)
  | key (k : Byte)
deriving DecidableEq, Repr

/-- One move. -/
def move (m : Move) (s : State) : Result :=
  match m with
  | .tick => step s
  | .raise i => .next (s.raiseLine i)
  | .key k => .next (s.keyPress k)

/-- A finite interleaving of ticks, raises and key presses (70_reset_and_hazards.md R292). -/
def runMoves : List Move → State → Result
  | [], s => .next s
  | m :: ms, s =>
    match move m s with
    | .next t => runMoves ms t
    | .fault r => .fault r
    | .refused r => .refused r

end Sys2Proof.Machine
end

