-- ==== Sys2Proof/Machine/Loader.lean ====
section
/-! DEFINITION. The program loader, as far as it decides the boot image (70_reset_and_hazards.md R285, decision D27).
A text file is a list of characters; log entry 11 names the small points the spec leaves open. -/

namespace Sys2Proof.Machine

/-- What one line of the load file holds. -/
inductive LoadLine
  /-- nothing once the comment and the white space are taken off: skipped -/
  | blank
  /-- one instruction byte -/
  | byte (v : Byte)
  /-- anything else: the file is refused (D27) -/
  | malformed
deriving DecidableEq, Repr

/-- White space within a line. -/
def isBlankChar (c : Char) : Bool := c == ' ' || c == '\t' || c == '\r'

/-- The line without its comment: everything from the first `#` on is dropped (R285). -/
def stripComment (line : List Char) : List Char := line.takeWhile fun c => c != '#'

/-- White space taken off both ends. -/
def trimBlanks (line : List Char) : List Char :=
  ((line.dropWhile isBlankChar).reverse.dropWhile isBlankChar).reverse

/-- A binary digit. -/
def bitOf? (c : Char) : Option Nat := if c == '0' then some 0 else if c == '1' then some 1 else none

/-- The number that binary digits write, the first the most significant (R285), on top of the digits read so far. -/
def binaryFrom : Nat → List Char → Option Nat
  | acc, [] => some acc
  | acc, c :: cs =>
    match bitOf? c with
    | some b => binaryFrom (2 * acc + b) cs
    | none => none

/-- One line: 8 binary digits, with an optional comment, or a blank (R285). -/
def parseLine (line : List Char) : LoadLine :=
  match trimBlanks (stripComment line) with
  | [] => .blank
  | digits =>
    match digits.length == 8, binaryFrom 0 digits with
    | true, some v => .byte (BitVec.ofNat 8 v)
    | _, _ => .malformed

/-- The byte a line holds. -/
def LoadLine.byte? : LoadLine → Option Byte
  | .byte v => some v
  | .blank => none
  | .malformed => none

/-- A text cut into its lines at the line feeds. -/
def splitLines : List Char → List (List Char)
  | [] => [[]]
  | c :: cs =>
    match c == '\n', splitLines cs with
    | true, lines => [] :: lines
    | false, line :: lines => (c :: line) :: lines
    | false, [] => [[c]]

/-- The bytes of the kept lines in file order; none if a line is malformed (R285, D27). -/
def parseLines : List (List Char) → Option (List Byte)
  | [] => some []
  | line :: lines =>
    match parseLine line, parseLines lines with
    | .blank, rest => rest
    | .byte v, some rest => some (v :: rest)
    | .byte _, none => none
    | .malformed, _ => none

/-- The image a load file gives; none if a line is malformed or there are more than 256 bytes (R285, D27). -/
def loadText (text : List Char) : Option (List Byte) :=
  match parseLines (splitLines text) with
  | some image => if image.length ≤ 256 then some image else none
  | none => none

/-- Image bytes stored at addresses `a`, `a + 1`, … -/
def storeImage : List Byte → Nat → List Host.Cell → List Host.Cell
  | [], _, m => m
  | v :: vs, a, m => storeImage vs (a + 1) (memStore m a v)

/-- The state before the first tick: reset, with the image's byte j at address j (R285, R280). -/
def boot (c : Config) (image : List Byte) : State :=
  { State.resetWith c with mem := storeImage image 0 [] }

/-- Loading a file: the state the core starts from, none where the loader refuses the file and the core does not start (D27). -/
def bootText (c : Config) (text : List Char) : Option State := (loadText text).map (boot c)

end Sys2Proof.Machine
end

