-- ==== Sys2Proof/Safety.lean ====
section
/-! DEFINITION. The terms in which claims are stated: when a tick runs an instruction, the form of an instruction's rule,
what each instruction may write, when it halts, the invariant, and the end-of-run observation. -/

namespace Sys2Proof.Machine

/-! ### When a tick runs an instruction -/

/-- The `n` bytes from an address on, addresses wrapping (20_memory.md R52). -/
def State.bytesFrom (s : State) (a : Byte) (n : Nat) : List Byte :=
  (List.range n).map fun k => s.memRead (a + BitVec.ofNat 8 k)

/-- The core is not halted and the interrupt check finds nothing to take (60_exceptions.md R243), and the opcode map meets
30_encoding.md R81: the next tick fetches and runs an instruction. -/
def State.ready (s : State) : Prop :=
  s.halted = false ∧ (s.ie = false ∨ s.is &&& s.im = 0) ∧ s.cfg.opc.valid = true

/-- The bytes at PC are those of the instruction under the machine's opcode map. -/
def State.fetchesInstr (s : State) (i : Instr) : Prop :=
  s.bytesFrom s.pc (encodeWith s.cfg.opc i).length = encodeWith s.cfg.opc i

/-- The state a handler runs in: PCSET cleared, IR and the operand latches filled (30_encoding.md R70, R71). -/
def State.fetched (s : State) : State := (s.setPcset false).fetch

/-! ### The form of an instruction's rule

Each form says two things: what `exec` answers, for every state that meets `pre`, and what the whole tick answers when the
instruction stands at PC. -/

/-- The instruction has the given effect and the tick then advances PC by `n` (30_encoding.md R76). -/
def RunsThenAdvances (i : Instr) (n : Byte) (pre : State → Prop) (effect : State → State) : Prop :=
  (∀ s, pre s → exec i s = .next (effect s)) ∧
  ∀ s, s.ready → s.fetchesInstr i → pre s.fetched →
    step s = .next ((effect s.fetched).setPc (s.pc + n))

/-- The instruction has the given effect and the tick does not advance PC: the effect sets PC or halts (R76). -/
def RunsWithoutAdvance (i : Instr) (pre : State → Prop) (effect : State → State) : Prop :=
  (∀ s, pre s → exec i s = .next (effect s)) ∧
  ∀ s, s.ready → s.fetchesInstr i → pre s.fetched → step s = .next (effect s.fetched)

/-- No condition. -/
def always (_ : State) : Prop := True

/-- The instruction halts with BAD_REGISTER in every state, all else as it was and PC at the instruction
(30_encoding.md R78, 60_exceptions.md R242). -/
def HaltsBadRegister (i : Instr) : Prop :=
  RunsWithoutAdvance i always fun s =>
    { s with halted := true, haltReason := .badRegister, haltInfo := .badRegister s.pc s.ir s.operandBytes }

/-- The form of a register-register instruction of three bytes (format F2RR) that has an effect on all values. -/
def RegRegRule (opcode : Byte) (instr : Byte → Byte → Instr) (effect : Reg → Reg → State → State) : Prop :=
  (∀ a b, encode (instr a b) = [opcode, a, b]) ∧
  (∀ ra rb : Reg, RunsThenAdvances (instr ra.byte rb.byte) 3 always (effect ra rb)) ∧
  ∀ a b, 7 < a.toNat ∨ 7 < b.toNat → HaltsBadRegister (instr a b)

/-- The form of a register-immediate instruction of three bytes (format F2RI). -/
def RegImmRule (opcode : Byte) (instr : Byte → Byte → Instr) (effect : Reg → Byte → State → State) : Prop :=
  (∀ r imm, encode (instr r imm) = [opcode, r, imm]) ∧
  (∀ (r : Reg) (imm : Byte), RunsThenAdvances (instr r.byte imm) 3 always (effect r imm)) ∧
  ∀ r imm, 7 < r.toNat → HaltsBadRegister (instr r imm)

/-- The form of a one-register instruction of two bytes (format F1R) that PC advances over. -/
def RegRule (opcode : Byte) (instr : Byte → Instr) (effect : Reg → State → State) : Prop :=
  (∀ r, encode (instr r) = [opcode, r]) ∧
  (∀ r : Reg, RunsThenAdvances (instr r.byte) 2 always (effect r)) ∧
  ∀ r, 7 < r.toNat → HaltsBadRegister (instr r)

/-- The form of a one-register instruction (format F1R) that transfers control where `taken` holds and is otherwise passed
over with no effect. -/
def RegJumpRule (opcode : Byte) (instr : Byte → Instr) (taken : State → Prop) (effect : Reg → State → State) : Prop :=
  (∀ r, encode (instr r) = [opcode, r]) ∧
  (∀ r : Reg, RunsWithoutAdvance (instr r.byte) taken (effect r)) ∧
  (∀ r : Reg, RunsThenAdvances (instr r.byte) 2 (fun s => ¬ taken s) id) ∧
  ∀ r, 7 < r.toNat → HaltsBadRegister (instr r)

/-- The form of a one-register instruction (format F1R) that always transfers control. -/
def RegTransferRule (opcode : Byte) (instr : Byte → Instr) (effect : Reg → State → State) : Prop :=
  (∀ r, encode (instr r) = [opcode, r]) ∧
  (∀ r : Reg, RunsWithoutAdvance (instr r.byte) always (effect r)) ∧
  ∀ r, 7 < r.toNat → HaltsBadRegister (instr r)

/-- The form of a one-immediate instruction (format F1I), which always transfers control and has no illegal operand. -/
def ImmTransferRule (opcode : Byte) (instr : Byte → Instr) (effect : Byte → State → State) : Prop :=
  (∀ imm, encode (instr imm) = [opcode, imm]) ∧ ∀ imm, RunsWithoutAdvance (instr imm) always (effect imm)

/-- The form of an instruction without operands (format F0) that sets PC itself or halts. -/
def BareRule (opcode : Byte) (i : Instr) (effect : State → State) : Prop :=
  encode i = [opcode] ∧ RunsWithoutAdvance i always effect

/-- The form of a register-register division (41_alu.md R123, R128, R129): the effect where the divisor is not 0, the
DIV_ZERO halt where it is. -/
def RegRegDivisionRule (opcode : Byte) (instr : Byte → Byte → Instr) (effect : Reg → Reg → State → State) : Prop :=
  (∀ a b, encode (instr a b) = [opcode, a, b]) ∧
  (∀ ra rb : Reg, RunsThenAdvances (instr ra.byte rb.byte) 3 (fun s => s.reg rb ≠ 0) (effect ra rb)) ∧
  (∀ ra rb : Reg, RunsWithoutAdvance (instr ra.byte rb.byte) (fun s => s.reg rb = 0) fun s =>
    { s with
      halted := true, haltReason := .divZero
      haltInfo := .divRegister s.pc s.ir s.opa s.opb (s.reg ra) 0 }) ∧
  ∀ a b, 7 < a.toNat ∨ 7 < b.toNat → HaltsBadRegister (instr a b)

/-- The form of a register-immediate division (41_alu.md R123, R133, R134). -/
def RegImmDivisionRule (opcode : Byte) (instr : Byte → Byte → Instr) (effect : Reg → Byte → State → State) : Prop :=
  (∀ r imm, encode (instr r imm) = [opcode, r, imm]) ∧
  (∀ (r : Reg) (imm : Byte), imm ≠ 0 → RunsThenAdvances (instr r.byte imm) 3 always (effect r imm)) ∧
  (∀ r : Reg, RunsWithoutAdvance (instr r.byte 0) always fun s =>
    { s with
      halted := true, haltReason := .divZero
      haltInfo := .divImmediate s.pc s.ir s.opa 0 (s.reg r) }) ∧
  ∀ r imm, 7 < r.toNat → HaltsBadRegister (instr r imm)

/-! ### What an instruction may write -/

/-- The registers an instruction writes: its destination, and SP for the stack instructions (10_state.md R33). -/
def writesReg (i : Instr) (r : Reg) : Bool :=
  match i with
  | .hlt => false
  | .ret => r == .r7
  | .iret => true
  | .pra _ => false
  | .prn _ => false
  | .call _ => r == .r7
  | .calli _ => r == .r7
  | .pop k => r == .r7 || k == r.byte
  | .push _ => r == .r7
  | .jmp _ => false
  | .jeq _ => false
  | .jne _ => false
  | .jlt _ => false
  | .jgt _ => false
  | .jmpi _ => false
  | .not k => k == r.byte
  | .inc k => k == r.byte
  | .dec k => k == r.byte
  | .cmpi _ _ => false
  | .addi k _ => k == r.byte
  | .subi k _ => k == r.byte
  | .muli k _ => k == r.byte
  | .divi k _ => k == r.byte
  | .modi k _ => k == r.byte
  | .drw _ _ => false
  | .ld a _ => a == r.byte
  | .ldi k _ => k == r.byte
  | .st _ _ => false
  | .cmp _ _ => false
  | .add a _ => a == r.byte
  | .sub a _ => a == r.byte
  | .mul a _ => a == r.byte
  | .div a _ => a == r.byte
  | .mod a _ => a == r.byte
  | .or a _ => a == r.byte
  | .xor a _ => a == r.byte
  | .and a _ => a == r.byte

/-- CMP, CMPI and IRET write FL (10_state.md R26). -/
def writesFl (i : Instr) : Bool := i.op == .cmp || i.op == .cmpi || i.op == .iret

/-- PRA, PRN and DRW send an event (44_system.md R211). -/
def sendsEvent (i : Instr) : Bool := i.op == .pra || i.op == .prn || i.op == .drw

/-- The address an instruction stores a byte to, if it stores: x[a] for ST, and the address a push writes for PUSH, CALL
and CALLI (20_memory.md R51; 40_data_movement.md R103; 43_stack.md R190). -/
def storesAt (i : Instr) (s : State) : Option Byte :=
  match i with
  | .st a _ => if i.wellFormed then (regOf? a).map s.reg else none
  | .push _ => if i.wellFormed then some s.pushAddress else none
  | .call _ => if i.wellFormed then some s.pushAddress else none
  | .calli _ => some s.pushAddress
  | _ => none

/-- The instructions that set PCSET, the conditional jumps when their condition holds (30_encoding.md R77). -/
def transfersControl (i : Instr) (fl : Byte) : Bool :=
  match i.op with
  | .jmp | .jmpi | .call | .calli | .ret | .iret => true
  | .jeq => fl.getLsbD 0
  | .jne => !fl.getLsbD 0
  | .jgt => fl.getLsbD 1
  | .jlt => fl.getLsbD 2
  | _ => false

/-! ### When an instruction halts -/

/-- A division with well-formed operands whose divisor is 0 (41_alu.md R123). -/
def dividesByZero (i : Instr) (s : State) : Bool :=
  i.wellFormed &&
    match i with
    | .div _ b => (regOf? b).map s.reg == some 0
    | .mod _ b => (regOf? b).map s.reg == some 0
    | .divi _ imm => imm == 0
    | .modi _ imm => imm == 0
    | _ => false

/-- The reason an instruction halts with, NONE where it does not halt (60_exceptions.md R242). -/
def haltsWith (i : Instr) (s : State) : HaltReason :=
  if !i.wellFormed then .badRegister
  else if i = .hlt then .hlt
  else if dividesByZero i s then .divZero
  else .none

/-- The record an instruction halts with, empty where it does not halt (60_exceptions.md R242): the operand bytes are those
the latches hold, dividend and divisor the values read. -/
def haltRecord (i : Instr) (s : State) : HaltInfo :=
  match haltsWith i s, i with
  | .none, _ => .empty
  | .hlt, _ => .hlt s.pc s.ir
  | .badRegister, _ => .badRegister s.pc s.ir s.operandBytes
  | .divZero, .div a b =>
    .divRegister s.pc s.ir s.opa s.opb (((regOf? a).map s.reg).getD 0) (((regOf? b).map s.reg).getD 0)
  | .divZero, .mod a b =>
    .divRegister s.pc s.ir s.opa s.opb (((regOf? a).map s.reg).getD 0) (((regOf? b).map s.reg).getD 0)
  | .divZero, .divi r imm => .divImmediate s.pc s.ir s.opa imm (((regOf? r).map s.reg).getD 0)
  | .divZero, .modi r imm => .divImmediate s.pc s.ir s.opa imm (((regOf? r).map s.reg).getD 0)
  | .divZero, _ => .empty

/-- The numeric code of a halt reason (60_exceptions.md R242). -/
def HaltReason.code : HaltReason → Nat
  | .none => 0
  | .hlt => 1
  | .divZero => 2
  | .badRegister => 3

/-- The reason whose record this is. -/
def HaltInfo.reason : HaltInfo → HaltReason
  | .empty => .none
  | .hlt _ _ => .hlt
  | .divRegister _ _ _ _ _ _ => .divZero
  | .divImmediate _ _ _ _ _ => .divZero
  | .badRegister _ _ _ => .badRegister

/-- The PC and IR that the record holds. -/
def HaltInfo.pcAndIr : HaltInfo → Option (Byte × Byte)
  | .empty => none
  | .hlt pc ir => some (pc, ir)
  | .divRegister pc ir _ _ _ _ => some (pc, ir)
  | .divImmediate pc ir _ _ _ => some (pc, ir)
  | .badRegister pc ir _ => some (pc, ir)

/-! ### The invariant -/

/-- What holds of every state a machine can be in: memory is in its canonical form, the halt state agrees with itself
(10_state.md R32, 60_exceptions.md R242), and a halted core still stands at the instruction that halted (R241). -/
structure Inv (s : State) : Prop where
  memory : Memory.wf s.mem = true
  halted : s.halted = true ↔ s.haltReason ≠ .none
  record : s.haltInfo.reason = s.haltReason
  place : s.halted = true → s.haltInfo.pcAndIr = some (s.pc, s.ir)

/-! ### The end of a run (70_reset_and_hazards.md R287) -/

/-- What is observed of a run that has ended. -/
structure Observation where
  reason : HaltReason
  info : HaltInfo
  regs : Regs
  pc : Byte
  fl : Byte
  ie : Bool
  memory : List Byte
  out : List DisplayEvent
deriving DecidableEq, Repr

/-- The observation of a halted state; a run that has not halted has none (R287). -/
def State.observation (s : State) : Option Observation :=
  if s.halted then
    some
      { reason := s.haltReason, info := s.haltInfo, regs := s.regs, pc := s.pc, fl := s.fl, ie := s.ie
        memory := s.bytesFrom 0 256, out := s.out }
  else none

end Sys2Proof.Machine
end

