-- ==== Sys2Proof/Certificates/Slice0/Obligations.lean ====
section
/-! DEFINITION. The statements for the provers, drawn from the numbered rules of spec/. OBLIGATIONS.json lists them with the
rule each one formalises. Where a statement rests on a decision of the spec (92_eei_decisions.md) its docstring names it;
it also names the log entry where a statement rests on a choice of the model. No statement rests on a value that this model
chose. -/

open Sys2Proof Sys2Proof.Machine

/-! ### Encoding and decoding (30_encoding.md) -/

/-- Decoding undoes encoding, under every opcode map that meets R81 and for every operand byte, well-formed or not. -/
def Obligations.DecodeUndoesEncode : Prop :=
  ∀ (m : OpcodeMap) (i : Instr) (rest : List Byte),
    m.valid = true → decodeWith m (encodeWith m i ++ rest) = .instr i rest

/-- Encoding undoes decoding: the decoder drops no bit of the bytes it takes, under any map. -/
def Obligations.EncodeUndoesDecode : Prop :=
  ∀ (m : OpcodeMap) (bytes : List Byte) (i : Instr) (rest : List Byte),
    decodeWith m bytes = .instr i rest → encodeWith m i ++ rest = bytes

/-- Words of the default map, written out from R80 (decision D13), decode to their instructions, and an opcode byte the map
gives to none is rejected by name. -/
def Obligations.DefaultMapWordsDecode : Prop :=
  decode [0b10011000, 0b00000010, 0b00000001] = .instr (.ld 2 1) [] ∧
  decode [0b10011001, 0b00000000, 0b00001000] = .instr (.ldi 0 8) [] ∧
  decode [0b10101000, 0b00000000, 0b00000001] = .instr (.add 0 1) [] ∧
  decode [0b10001011, 0b00000011, 0b00000111] = .instr (.divi 3 7) [] ∧
  decode [0b01110000, 0b00000000] = .instr (.not 0) [] ∧
  decode [0b01010100, 0b00000010] = .instr (.jgt 2) [] ∧
  decode [0b01001001, 0b00100000] = .instr (.calli 0x20) [] ∧
  decode [0b01001100, 0b00000001] = .instr (.pop 1) [] ∧
  decode [0b00001011] = .instr .iret [] ∧
  decode [0b01001010, 0b00000000] = .unassigned 0x4A

/-- R81: what `valid` means, (a) injective, (b) the count bits are the format's operand count, (c) the operand bytes play no
part in selecting the instruction; and the default map of R80 is valid. -/
def Obligations.ValidMapsMeetTheConstraints : Prop :=
  (∀ m : OpcodeMap, m.valid = true ↔
    (∀ o p, m.byte o = m.byte p → o = p) ∧
    ∀ o, (m.byte o).extractLsb' 6 2 = BitVec.ofNat 2 o.format.operandCount) ∧
  (∀ (m : OpcodeMap) (ir a b a' b' : Byte),
    (dispatch m ir a b).map Instr.op = (dispatch m ir a' b').map Instr.op) ∧
  defaultOpc.valid = true

/-- R72: n is bits 7:6 of the opcode byte, an instruction is 1 + n bytes long, and under a valid map no instruction has an
opcode with n = 3 (decision D16). -/
def Obligations.LengthFromOpcodeBits : Prop :=
  (∀ b : Byte, operandCount b = (b.extractLsb' 6 2).toNat ∧ instrLength b = 1 + (b.extractLsb' 6 2).toNat) ∧
  (∀ (m : OpcodeMap) (i : Instr), m.valid = true →
    (encodeWith m i).length = instrLength (m.byte i.op)) ∧
  ∀ (m : OpcodeMap) (b : Byte), m.valid = true → b.extractLsb' 6 2 = 3 → m.opOf? b = none

/-- R87: the assembly line of every well-formed instruction, mnemonic, then operands in the order of the format, registers as
R0..R7 and immediates in decimal, is read as that instruction (decision D14). -/
def Obligations.AssemblyLineWritesTheInstruction : Prop :=
  ∀ i : Instr, i.wellFormed = true → assemble (assemblyLine i) = some i

/-! ### The tick (30_encoding.md R70-R76, R84) -/

/-- R71: the fetch unit fills IR, and the operand latches the count asks for; the rest of the state is as it was. -/
def Obligations.FetchFillsTheLatches : Prop :=
  ∀ s : State,
    s.fetch = { s with ir := s.memRead s.pc, opa := s.fetch.opa, opb := s.fetch.opb } ∧
    (s.fetch.opa = if (s.memRead s.pc).toNat < 64 then s.opa else s.memRead (s.pc + 1)) ∧
    (s.fetch.opb = if (s.memRead s.pc).toNat < 128 then s.opb else s.memRead (s.pc + 2))

/-- A tick runs the decoded instruction: PCSET cleared and the bytes latched, its meaning, then the advance of R76. -/
def Obligations.StepRunsDecodedInstruction : Prop :=
  ∀ (s : State) (i : Instr) (rest : List Byte),
    s.halted = false → (s.ie = false ∨ s.is &&& s.im = 0) →
    decodeWith s.cfg.opc (s.bytesFrom s.pc 4) = .instr i rest →
    ∃ t, exec i s.fetched = .next t ∧
      step s = .next
        (if t.halted = false ∧ t.pcset = false then
          { t with pc := t.pc + 1 + BitVec.ofNat 8 (operandCount (s.memRead s.pc)) }
        else t)

/-- R84: an opcode byte that the map assigns to no instruction is a no-op: its operand bytes are latched and PC advances by
1 + n, and nothing else changes. -/
def Obligations.UnassignedOpcodeIsNoOp : Prop :=
  ∀ s : State, s.halted = false → (s.ie = false ∨ s.is &&& s.im = 0) →
    s.cfg.opc.opOf? (s.memRead s.pc) = none →
    step s = .next
      { s with
        pcset := false
        ir := s.memRead s.pc
        opa := if operandCount (s.memRead s.pc) = 0 then s.opa else s.memRead (s.pc + 1)
        opb := if operandCount (s.memRead s.pc) ≤ 1 then s.opb else s.memRead (s.pc + 2)
        pc := s.pc + 1 + BitVec.ofNat 8 (operandCount (s.memRead s.pc)) }

/-- R77: of the well-formed instructions exactly these set PCSET: JMP, JMPI, CALL, CALLI, RET, IRET, and a conditional jump
whose condition holds. One that does not set PCSET leaves PC to the advance. -/
def Obligations.TransfersSetPcset : Prop :=
  ∀ (i : Instr) (s t : State), i.wellFormed = true → s.pcset = false → exec i s = .next t →
    t.pcset = transfersControl i s.fl ∧ (transfersControl i s.fl = false → t.pc = s.pc)

/-- No instruction traps or is refused, and neither is any list of moves: every one ends in a next state (R240, R260). -/
def Obligations.EveryMoveEndsInANextState : Prop :=
  (∀ (i : Instr) (s : State), ∃ t, exec i s = .next t) ∧
  ∀ (ms : List Move) (s : State), ∃ t, runMoves ms s = .next t

/-! ### Halting (60_exceptions.md R240-R242) -/

/-- R241: the tick that halts the core writes the halt state, with the reason and record of the instruction it fetched, and
nothing else that a program or the environment sees; PC stays at the instruction, and from then on no tick, raise or key press
changes anything. -/
def Obligations.HaltIsTerminalAndWritesNothingElse : Prop :=
  (∀ s t : State, s.halted = false → step s = .next t → t.halted = true →
    ∃ i, dispatch s.cfg.opc s.fetched.ir s.fetched.opa s.fetched.opb = some i ∧ haltsWith i s.fetched ≠ .none ∧
      t = { s with
        halted := true, haltReason := haltsWith i s.fetched, haltInfo := haltRecord i s.fetched
        pcset := false, ir := s.fetched.ir, opa := s.fetched.opa, opb := s.fetched.opb }) ∧
  ∀ (ms : List Move) (s : State), s.halted = true → runMoves ms s = .next s

/-- R242: which instruction halts, with which reason, code and record; every other instruction leaves the halt state alone. -/
def Obligations.HaltReasonsAndRecords : Prop :=
  (∀ (i : Instr) (s t : State), exec i s = .next t →
    (haltsWith i s = .none → t.halted = s.halted ∧ t.haltReason = s.haltReason ∧ t.haltInfo = s.haltInfo) ∧
    (haltsWith i s ≠ .none → t.halted = true ∧ t.haltReason = haltsWith i s ∧ t.haltInfo = haltRecord i s)) ∧
  HaltReason.code .none = 0 ∧ HaltReason.code .hlt = 1 ∧ HaltReason.code .divZero = 2 ∧ HaltReason.code .badRegister = 3

/-- R78: a register operand byte k in 0..7 names Rk, a byte above 7 names none, and every instruction with such a byte halts
with BAD_REGISTER and has no other effect, whatever the state; the operand bytes of an unassigned opcode are not checked, and
its tick does not halt (decision D17). -/
def Obligations.BadRegisterOperandHalts : Prop :=
  (∀ (s : State) (k : Byte), k.toNat ≤ 7 → ∃ r, regOf? k = some r ∧
    [s.regs.r0, s.regs.r1, s.regs.r2, s.regs.r3, s.regs.r4, s.regs.r5, s.regs.r6, s.regs.r7][k.toNat]? = some (s.reg r)) ∧
  (∀ k : Byte, 7 < k.toNat → regOf? k = none) ∧
  (∀ i : Instr, i.wellFormed = false → HaltsBadRegister i) ∧
  ∀ s t : State, s.halted = false → (s.ie = false ∨ s.is &&& s.im = 0) → s.cfg.opc.opOf? (s.memRead s.pc) = none →
    step s = .next t → t.halted = false

/-! ### Data movement (40_data_movement.md) -/

/-- R101, R102: LD loads the byte that the address register addresses, LDI the immediate. -/
def Obligations.LoadRules : Prop :=
  RegRegRule 0x98 .ld (fun a b s => s.setReg a (s.memRead (s.reg b))) ∧
  RegImmRule 0x99 .ldi (fun r imm s => s.setReg r imm)

/-- R103: ST stores register b at the address in register a. -/
def Obligations.StoreRule : Prop :=
  RegRegRule 0x9A .st fun a b s => s.memWrite (s.reg a) (s.reg b)

/-! ### The ALU (41_alu.md) -/

/-- R125, R126, R127: ADD, SUB and MUL, reduced modulo 256 (decision D8), FL untouched. -/
def Obligations.AddSubMulRules : Prop :=
  RegRegRule 0xA8 .add
    (fun a b s => s.setReg a (BitVec.ofNat 8 (((s.reg a).toNat + (s.reg b).toNat) % 256))) ∧
  RegRegRule 0xA9 .sub
    (fun a b s => s.setReg a (BitVec.ofInt 8 (((s.reg a).toNat : Int) - (s.reg b).toNat))) ∧
  RegRegRule 0xAA .mul
    (fun a b s => s.setReg a (BitVec.ofNat 8 ((s.reg a).toNat * (s.reg b).toNat % 256)))

/-- R128, R129, R123: DIV and MOD, the quotient rounded down (decision D9), and the DIV_ZERO halt. -/
def Obligations.DivModRules : Prop :=
  RegRegDivisionRule 0xAB .div
    (fun a b s => s.setReg a (BitVec.ofNat 8 ((s.reg a).toNat / (s.reg b).toNat))) ∧
  RegRegDivisionRule 0xAC .mod
    (fun a b s => s.setReg a (BitVec.ofNat 8 ((s.reg a).toNat % (s.reg b).toNat)))

/-- R130, R131, R132: ADDI, SUBI and MULI. -/
def Obligations.AddiSubiMuliRules : Prop :=
  RegImmRule 0x88 .addi
    (fun r imm s => s.setReg r (BitVec.ofNat 8 (((s.reg r).toNat + imm.toNat) % 256))) ∧
  RegImmRule 0x89 .subi
    (fun r imm s => s.setReg r (BitVec.ofInt 8 (((s.reg r).toNat : Int) - imm.toNat))) ∧
  RegImmRule 0x8A .muli
    (fun r imm s => s.setReg r (BitVec.ofNat 8 ((s.reg r).toNat * imm.toNat % 256)))

/-- R133, R134: DIVI and MODI. -/
def Obligations.DiviModiRules : Prop :=
  RegImmDivisionRule 0x8B .divi
    (fun r imm s => s.setReg r (BitVec.ofNat 8 ((s.reg r).toNat / imm.toNat))) ∧
  RegImmDivisionRule 0x8C .modi
    (fun r imm s => s.setReg r (BitVec.ofNat 8 ((s.reg r).toNat % imm.toNat)))

/-- R135, R136, R148: INC, DEC and NOT (decisions D8, D10). -/
def Obligations.UnaryRules : Prop :=
  RegRule 0x78 .inc (fun r s => s.setReg r (BitVec.ofNat 8 (((s.reg r).toNat + 1) % 256))) ∧
  RegRule 0x79 .dec (fun r s => s.setReg r (BitVec.ofInt 8 (((s.reg r).toNat : Int) - 1))) ∧
  RegRule 0x70 .not (fun r s => s.setReg r (BitVec.ofNat 8 (255 - (s.reg r).toNat)))

/-- R145, R146, R147: AND, OR and XOR. -/
def Obligations.LogicRules : Prop :=
  RegRegRule 0xB3 .and (fun a b s => s.setReg a (s.reg a &&& s.reg b)) ∧
  RegRegRule 0xB1 .or (fun a b s => s.setReg a (s.reg a ||| s.reg b)) ∧
  RegRegRule 0xB2 .xor (fun a b s => s.setReg a (s.reg a ^^^ s.reg b))

/-- R140, R141: CMP and CMPI overwrite FL whole with E, G or L, comparing unsigned (decisions D6, D11). -/
def Obligations.CompareRules : Prop :=
  RegRegRule 0xA0 .cmp
    (fun a b s => { s with
      fl := if (s.reg a).toNat = (s.reg b).toNat then 0b00000001
        else if (s.reg b).toNat < (s.reg a).toNat then 0b00000010 else 0b00000100 }) ∧
  RegImmRule 0x80 .cmpi
    (fun r imm s => { s with
      fl := if (s.reg r).toNat = imm.toNat then 0b00000001
        else if imm.toNat < (s.reg r).toNat then 0b00000010 else 0b00000100 })

/-- R27, first sentence: after a CMP or CMPI exactly one of FL[0], FL[1], FL[2] is 1 and FL[7:3] is 0. -/
def Obligations.ComparisonSetsExactlyOneFlag : Prop :=
  ∀ (i : Instr) (s t : State), i.op = .cmp ∨ i.op = .cmpi → i.wellFormed = true → exec i s = .next t →
    t.fl.extractLsb' 3 5 = 0 ∧
    [t.fl.getLsbD 0, t.fl.getLsbD 1, t.fl.getLsbD 2].count true = 1

/-! ### Control transfer (42_control.md) -/

/-- R163, R164: JMP and JMPI. -/
def Obligations.JumpRules : Prop :=
  RegTransferRule 0x50 .jmp (fun r s => { s with pc := s.reg r, pcset := true }) ∧
  ImmTransferRule 0x58 .jmpi (fun imm s => { s with pc := imm, pcset := true })

/-- R165 to R168: JEQ, JNE, JGT and JLT, taken and untaken (decision D15). -/
def Obligations.ConditionalJumpRules : Prop :=
  RegJumpRule 0x51 .jeq (fun s => s.fl.getLsbD 0 = true) (fun r s => { s with pc := s.reg r, pcset := true }) ∧
  RegJumpRule 0x52 .jne (fun s => s.fl.getLsbD 0 = false) (fun r s => { s with pc := s.reg r, pcset := true }) ∧
  RegJumpRule 0x54 .jgt (fun s => s.fl.getLsbD 1 = true) (fun r s => { s with pc := s.reg r, pcset := true }) ∧
  RegJumpRule 0x53 .jlt (fun s => s.fl.getLsbD 2 = true) (fun r s => { s with pc := s.reg r, pcset := true })

/-- A conditional jump does the same in two states whose FL differ only in bits it does not test, and keeps FL as it found
it: JEQ and JNE read bit 0 alone, JGT bit 1, JLT bit 2 (R165 to R168). -/
def Obligations.ConditionalJumpsReadOneFlag : Prop :=
  ∀ (i : Instr) (k : Nat), (i.op, k) ∈ [(Op.jeq, 0), (.jne, 0), (.jgt, 1), (.jlt, 2)] →
    ∀ (s t : State) (fl : Byte), fl.getLsbD k = s.fl.getLsbD k → exec i s = .next t →
      t.fl = s.fl ∧ exec i { s with fl := fl } = .next { t with fl := fl }

/-- R170, R171: CALL and CALLI push the address after the call and go to the target, which CALL reads before the push
(decision D12). -/
def Obligations.CallRules : Prop :=
  RegTransferRule 0x48 .call
    (fun r s => { (s.setReg .r7 (s.sp - 1)).memWrite (s.sp - 1) (s.pc + 2) with pc := s.reg r, pcset := true }) ∧
  ImmTransferRule 0x49 .calli
    (fun imm s => { (s.setReg .r7 (s.sp - 1)).memWrite (s.sp - 1) (s.pc + 2) with pc := imm, pcset := true })

/-- R172: RET pops PC. -/
def Obligations.ReturnRule : Prop :=
  BareRule 0x09 .ret fun s => { s.setReg .r7 (s.sp + 1) with pc := s.memRead s.sp, pcset := true }

/-- A return undoes a call: whatever runs in between, if SP and the byte at SP are as the call left them, RET goes to the
address after the call and SP is as before it (R161, R170). -/
def Obligations.ReturnUndoesCall : Prop :=
  ∀ (i : Instr) (s t u : State), i.op = .call ∨ i.op = .calli → i.wellFormed = true → Memory.wf s.mem = true →
    exec i s = .next t → u.sp = t.sp → u.memRead u.sp = t.memRead t.sp →
    ∃ v, exec .ret u = .next v ∧ v.pc = s.pc + 2 ∧ v.sp = s.sp

/-! ### The stack (43_stack.md) -/

/-- R195, R196: PUSH stores the register's value at SP - 1; POP loads the byte at SP, after SP has risen (decision D12). -/
def Obligations.PushPopRules : Prop :=
  RegRule 0x4D .push (fun r s => (s.setReg .r7 (s.sp - 1)).memWrite (s.sp - 1) (s.reg r)) ∧
  RegRule 0x4C .pop (fun r s => (s.setReg .r7 (s.sp + 1)).setReg r (s.memRead s.sp))

/-- Push and pop are inverse (R193, which the spec derives from R190 and R191): the pop after a push gives the byte pushed
and SP as before, every other register as it was, and every byte of memory but the one pushed. -/
def Obligations.PopUndoesPush : Prop :=
  ∀ (s : State) (v : Byte), Memory.wf s.mem = true →
    (s.push v).pop.1 = v ∧ (s.push v).pop.2.regs = s.regs ∧
    ∀ x, x ≠ s.sp - 1 → (s.push v).pop.2.memRead x = s.memRead x

/-! ### Halt, display, interrupt return (44_system.md) -/

/-- R210: HLT halts, PC stays (decision D18), and nothing that follows changes anything. -/
def Obligations.HaltRule : Prop :=
  BareRule 0x01 .hlt (fun s => { s with halted := true, haltReason := .hlt, haltInfo := .hlt s.pc s.ir }) ∧
  ∀ (ms : List Move) (s t : State), exec .hlt s = .next t → runMoves ms t = .next t

/-- R212, R213, R214: PRN, PRA and DRW send one event and change nothing else. -/
def Obligations.DisplayRules : Prop :=
  RegRule 0x43 .prn (fun r s => { s with out := s.out ++ [.emitNumber (s.reg r)] }) ∧
  RegRule 0x42 .pra (fun r s => { s with out := s.out ++ [.emitChar (s.reg r)] }) ∧
  RegRegRule 0x90 .drw (fun a b s => { s with out := s.out ++ [.plot (s.reg a) (s.reg b)] })

/-- R220: IRET pops R6 down to R0, then FL, then PC, and sets IE. -/
def Obligations.InterruptReturnRule : Prop :=
  BareRule 0x0B .iret fun s =>
    { s with
      regs :=
        { r6 := s.memRead s.sp, r5 := s.memRead (s.sp + 1), r4 := s.memRead (s.sp + 2), r3 := s.memRead (s.sp + 3)
          r2 := s.memRead (s.sp + 4), r1 := s.memRead (s.sp + 5), r0 := s.memRead (s.sp + 6), r7 := s.sp + 9 }
      fl := s.memRead (s.sp + 7)
      pc := s.memRead (s.sp + 8)
      ie := true
      pcset := true }

/-! ### Frames: what an instruction leaves unchanged -/

/-- Every register but those R33 lets the instruction write, FL unless it is CMP, CMPI or IRET (R26), IE unless it is IRET
(R28), OUT unless it is a display instruction (R211), and always IR, the operand latches and the parameters. -/
def Obligations.RegisterAndFlagFrame : Prop :=
  ∀ (i : Instr) (s t : State), exec i s = .next t →
    (∀ r, writesReg i r = false → t.reg r = s.reg r) ∧
    (writesFl i = false → t.fl = s.fl) ∧
    (i ≠ .iret → t.ie = s.ie) ∧
    (sendsEvent i = false → t.out = s.out) ∧
    t.ir = s.ir ∧ t.opa = s.opa ∧ t.opb = s.opb ∧ t.cfg = s.cfg

/-- Every byte of memory but the one at the address the instruction stores to: x[a] for ST, SP - 1 for PUSH, CALL and
CALLI. Every other instruction stores nothing. -/
def Obligations.MemoryFrame : Prop :=
  ∀ (i : Instr) (s t : State), exec i s = .next t →
    ∀ x, storesAt i s ≠ some x → t.memRead x = s.memRead x

/-- R124: no ALU instruction except CMP and CMPI writes FL, and none of them writes memory, PC or OUT. -/
def Obligations.AluLeavesFlags : Prop :=
  ∀ (i : Instr) (s t : State),
    i.op ∈ [.add, .sub, .mul, .div, .mod, .addi, .subi, .muli, .divi, .modi, .inc, .dec, .and, .or, .xor, .not] →
    exec i s = .next t → t.fl = s.fl ∧ t.mem = s.mem ∧ t.pc = s.pc ∧ t.out = s.out

/-! ### Interrupts (60_exceptions.md) -/

/-- R243: with IE = 1 and a line pending and enabled, the whole tick is the entry of a line; with IE = 0 or no such line, the
tick fetches and executes. -/
def Obligations.InterruptCheckOpensTheTick : Prop :=
  (∀ s : State, s.halted = false → s.ie = true → s.is &&& s.im ≠ 0 →
    ∃ i : Fin 8, (s.is &&& s.im).getLsbD i.val = true ∧ (∀ j : Fin 8, j < i → (s.is &&& s.im).getLsbD j.val = false) ∧
      step s = .next ((s.setPcset false).interruptEntry i)) ∧
  ∀ s : State, s.halted = false → (s.ie = false ∨ s.is &&& s.im = 0) →
    ∃ t, s.fetched.execute = .next t ∧ step s = .next t.advance

/-- R244 to R247: the lowest pending enabled line is served; its IS bit and IE are cleared, PC, FL and R0..R6 are pushed in
that order, with IS saved after the clear, PC is read from the vector table after the pushes, and everything else is as it was.
`saved r` is the value of register r after the clear. IS_IDX must not be R7, which would make IS the stack pointer. -/
def Obligations.InterruptEntrySavesContext : Prop :=
  ∀ (s : State) (i : Fin 8), s.halted = false → s.ie = true → (s.is &&& s.im).getLsbD i.val = true →
    (∀ j : Fin 8, j < i → (s.is &&& s.im).getLsbD j.val = false) → Memory.wf s.mem = true → s.cfg.isIdx ≠ .r7 →
    ∃ (t : State) (saved : Reg → Byte), step s = .next t ∧
      (∀ r, saved r = if r = s.cfg.isIdx then s.is &&& ~~~ ((1 : Byte) <<< i.val) else s.reg r) ∧
      t.ie = false ∧ (∀ r, r ≠ .r7 → t.reg r = saved r) ∧ t.sp = s.sp - 9 ∧
      t.memRead (s.sp - 1) = s.pc ∧ t.memRead (s.sp - 2) = s.fl ∧
      t.memRead (s.sp - 3) = saved .r0 ∧ t.memRead (s.sp - 4) = saved .r1 ∧ t.memRead (s.sp - 5) = saved .r2 ∧
      t.memRead (s.sp - 6) = saved .r3 ∧ t.memRead (s.sp - 7) = saved .r4 ∧ t.memRead (s.sp - 8) = saved .r5 ∧
      t.memRead (s.sp - 9) = saved .r6 ∧
      (∀ x, (∀ k : Fin 9, x ≠ s.sp - BitVec.ofNat 8 (k.val + 1)) → t.memRead x = s.memRead x) ∧
      t.pc = t.memRead (s.cfg.vtBase + BitVec.ofNat 8 i.val) ∧
      t.fl = s.fl ∧ t.ir = s.ir ∧ t.opa = s.opa ∧ t.opb = s.opb ∧ t.pcset = false ∧ t.out = s.out ∧
      t.halted = false ∧ t.haltReason = s.haltReason ∧ t.haltInfo = s.haltInfo ∧ t.cfg = s.cfg

/-- Interrupts are precise (R248, which the spec derives from R243 and R246): whatever the handler does, if at its IRET SP and
the nine stacked bytes are as entry left them, the interrupted program goes on at the same PC with R0..R4, IM, FL, SP as they
were, IS without the served line's bit, and interrupts enabled. -/
def Obligations.InterruptRoundTrip : Prop :=
  ∀ (s t u : State) (i : Fin 8), s.halted = false → s.ie = true → (s.is &&& s.im).getLsbD i.val = true →
    (∀ j : Fin 8, j < i → (s.is &&& s.im).getLsbD j.val = false) → Memory.wf s.mem = true → s.cfg.isIdx ≠ .r7 →
    step s = .next t → u.sp = t.sp →
    (∀ k : Fin 9, u.memRead (t.sp + BitVec.ofNat 8 k.val) = t.memRead (t.sp + BitVec.ofNat 8 k.val)) →
    ∃ v, exec .iret u = .next v ∧ v.pc = s.pc ∧ v.fl = s.fl ∧ v.ie = true ∧ v.sp = s.sp ∧
      (∀ r, r ≠ s.cfg.isIdx → v.reg r = s.reg r) ∧
      v.reg s.cfg.isIdx = s.is &&& ~~~ ((1 : Byte) <<< i.val) ∧ ∀ x, v.memRead x = u.memRead x

/-- R28: IE is 1 at reset; with IE = 0 nothing is arbitrated; interrupt entry clears it and IRET sets it; no other
instruction reads or writes it. -/
def Obligations.EnableLatchRule : Prop :=
  (∀ c : Config, (State.resetWith c).ie = true) ∧
  (∀ s : State, s.halted = false → s.ie = false → ∃ t, s.fetched.execute = .next t ∧ step s = .next t.advance) ∧
  (∀ (s : State) (i : Fin 8), (s.interruptEntry i).ie = false) ∧
  (∀ s t : State, exec .iret s = .next t → t.ie = true) ∧
  ∀ (i : Instr) (s t : State) (b : Bool), i ≠ .iret → exec i s = .next t →
    t.ie = s.ie ∧ exec i { s with ie := b } = .next { t with ie := b }

/-- Interrupts do not nest (R255): over any list of moves, IE can go from 0 to 1 only through a tick that fetches IRET. -/
def Obligations.OnlyIretEndsAHandler : Prop :=
  ∀ (ms : List Move) (s t : State), s.ie = false → runMoves ms s = .next t → t.ie = true →
    ∃ (before after : List Move) (u : State), ms = before ++ .tick :: after ∧ runMoves before s = .next u ∧
      u.halted = false ∧ u.ie = false ∧ u.cfg.opc.opOf? (u.memRead u.pc) = some .iret

/-- A raise sets the line's IS bit and nothing else; a key press stores the key at KEY_ADDR and raises line 1; neither does
anything to a halted core (R250, R251, R241). That a key press is one move is the model's choice (log entry 12, DESIGN CHOICE),
after the spec's decision D23: R251 has two moves in this order and lets a platform part them. -/
def Obligations.RaiseAndKeyPress : Prop :=
  (∀ (s : State) (i : Fin 8), s.halted = false → move (.raise i) s = .next (s.setIs (s.is ||| (1 : Byte) <<< i.val))) ∧
  (∀ (s : State) (k : Byte), s.halted = false →
    move (.key k) s = .next ((s.memWrite s.cfg.keyAddr k).setIs (s.is ||| 0b00000010))) ∧
  ∀ (s : State) (i : Fin 8) (k : Byte), s.halted = true → move (.raise i) s = .next s ∧ move (.key k) s = .next s

/-- Interrupt latency (R293, which the spec derives from R243): a line raised with its IM bit 1 and IE = 1 makes the next tick
an interrupt entry, of that line or of a lower-numbered one that is pending and enabled too; no instruction runs in that tick.
IM_IDX and IS_IDX must differ. -/
def Obligations.RaisedLineIsServedNextTick : Prop :=
  ∀ (s : State) (i : Fin 8), s.halted = false → s.ie = true → s.im.getLsbD i.val = true → s.cfg.imIdx ≠ s.cfg.isIdx →
    ∃ (j : Fin 8) (t : State), j ≤ i ∧ runMoves [.raise i, .tick] s = .next t ∧
      (j = i ∨ (s.is &&& s.im).getLsbD j.val = true) ∧
      t = ((s.raiseLine i).setPcset false).interruptEntry j ∧ t.ie = false ∧ t.ir = s.ir ∧ t.out = s.out

/-- R22, R252: IM and IS are the registers that IM_IDX and IS_IDX name: LDI to them is a write of IM or IS. -/
def Obligations.MaskAndStatusAreRegisters : Prop :=
  ∀ (s : State) (v : Byte),
    (∃ t, exec (.ldi s.cfg.imIdx.byte v) s = .next t ∧ t.im = v ∧ ∀ r, r ≠ s.cfg.imIdx → t.reg r = s.reg r) ∧
    ∃ t, exec (.ldi s.cfg.isIdx.byte v) s = .next t ∧ t.is = v ∧ ∀ r, r ≠ s.cfg.isIdx → t.reg r = s.reg r

/-! ### Memory (20_memory.md) -/

/-- A read gives the byte last written to that address, and a write changes no other address (R50, R55, R57). -/
def Obligations.MemoryReadsTheLatestWrite : Prop :=
  ∀ (s : State) (a v : Byte), Memory.wf s.mem = true →
    (s.memWrite a v).memRead a = v ∧ (∀ x, x ≠ a → (s.memWrite a v).memRead x = s.memRead x) ∧
    Memory.wf (s.memWrite a v).mem = true

/-- Two canonical memories that read alike everywhere are the same data (log entry 8: the canonical form is the model's). -/
def Obligations.CanonicalMemoryIsDeterminedByReads : Prop :=
  ∀ s t : State, Memory.wf s.mem = true → Memory.wf t.mem = true → (∀ x, s.memRead x = t.memRead x) → s.mem = t.mem

/-! ### Invariants -/

/-- Every tick keeps the invariant: memory canonical, the halt state in agreement, a halted core at its instruction. -/
def Obligations.StepKeepsInvariant : Prop :=
  ∀ s t : State, Inv s → step s = .next t → Inv t

/-- So does every list of ticks, raises and key presses. -/
def Obligations.EveryScheduleKeepsInvariant : Prop :=
  ∀ (ms : List Move) (s t : State), Inv s → runMoves ms s = .next t → Inv t

/-- The invariant holds at reset, whatever the OPEN parameters, and after every image is loaded. -/
def Obligations.ResetAndBootMeetInvariant : Prop :=
  ∀ (c : Config) (image : List Byte), image.length ≤ 256 → Inv (State.resetWith c) ∧ Inv (boot c image)

/-- R35: OUT only grows, by at most one event a move; and no move changes the parameters. -/
def Obligations.OutputOnlyGrows : Prop :=
  ∀ (ms : List Move) (s t : State), runMoves ms s = .next t →
    (∃ sent, t.out = s.out ++ sent ∧ sent.length ≤ ms.length) ∧ t.cfg = s.cfg

/-! ### Reset and loading (10_state.md R36, 70_reset_and_hazards.md) -/

/-- R36: the state at reset, whatever the OPEN parameters (decisions D4, D19, D20); memory is R281's, the empty record the
state table's. -/
def Obligations.ResetValues : Prop :=
  (∀ c : Config,
    (∀ r, r ≠ .r7 → (State.resetWith c).reg r = 0) ∧ (State.resetWith c).sp = c.spReset ∧
    (State.resetWith c).pc = 0 ∧ (State.resetWith c).fl = 0 ∧ (State.resetWith c).ie = true ∧
    (State.resetWith c).ir = 0 ∧ (State.resetWith c).opa = 0 ∧ (State.resetWith c).opb = 0 ∧
    (State.resetWith c).pcset = false ∧ (State.resetWith c).halted = false ∧
    (State.resetWith c).haltReason = .none ∧ (State.resetWith c).haltInfo = .empty ∧ (State.resetWith c).out = [] ∧
    ∀ a, (State.resetWith c).memRead a = 0) ∧
  defaultConfig.spReset = 0xF4

/-- R285: byte j of the image is at address j, and every other address still reads 0x00 (R281). -/
def Obligations.LoadedImageIsInMemory : Prop :=
  ∀ (c : Config) (image : List Byte), image.length ≤ 256 →
    ∀ a : Byte, (boot c image).memRead a = (image[a.toNat]?).getD 0

/-- A comment changes nothing: a line loads as it does with its comment taken off (R285). -/
def Obligations.CommentChangesNothing : Prop :=
  ∀ line comment : List Char, '#' ∉ line → parseLine (line ++ '#' :: comment) = parseLine line

/-- A byte written as 8 binary digits, the first bit 7, with white space around them, loads as that byte (R285). -/
def Obligations.BinaryDigitsLoadTheByte : Prop :=
  ∀ (v : Byte) (before after : List Char), before.all isBlankChar = true → after.all isBlankChar = true →
    parseLine (before ++ [7, 6, 5, 4, 3, 2, 1, 0].map (fun k => if v.getLsbD k then '1' else '0') ++ after) = .byte v

/-- The loader keeps the bytes of the kept lines in file order, and refuses a file with a malformed line or with more than 256
bytes (R285; the refusal is decision D27). -/
def Obligations.LoaderKeepsFileOrderOrRefuses : Prop :=
  ∀ text : List Char,
    loadText text =
      if .malformed ∈ (splitLines text).map parseLine ∨
          256 < ((splitLines text).filterMap fun line => (parseLine line).byte?).length then none
      else some ((splitLines text).filterMap fun line => (parseLine line).byte?)
end

