-- ==== Sys2Proof/Laws/PerInstr.lean ====
section
/-! SUPPORT. One lemma per constructor of `Instr`: the instruction is its operation applied to its operand bytes, and it has
as many operand bytes as its format says (30_encoding.md R73, R74). -/

namespace Sys2Proof

/-- An instruction is rebuilt from its operation and its operand bytes; a latch that its format does not fill is not read. -/
def Laws.Shape.Statement (i : Instr) : Prop :=
  i.operands.length = i.op.format.operandCount ∧
  match i.operands with
  | [] => ∀ opa opb, i.op.instr opa opb = i
  | [opa] => ∀ opb, i.op.instr opa opb = i
  | [opa, opb] => i.op.instr opa opb = i
  | _ => False

theorem Laws.Shape.hlt : Laws.Shape.Statement (.hlt) := ⟨rfl, fun _ _ => rfl⟩
theorem Laws.Shape.ret : Laws.Shape.Statement (.ret) := ⟨rfl, fun _ _ => rfl⟩
theorem Laws.Shape.iret : Laws.Shape.Statement (.iret) := ⟨rfl, fun _ _ => rfl⟩
theorem Laws.Shape.pra (r : Byte) : Laws.Shape.Statement (.pra r) := ⟨rfl, fun _ => rfl⟩
theorem Laws.Shape.prn (r : Byte) : Laws.Shape.Statement (.prn r) := ⟨rfl, fun _ => rfl⟩
theorem Laws.Shape.call (r : Byte) : Laws.Shape.Statement (.call r) := ⟨rfl, fun _ => rfl⟩
theorem Laws.Shape.calli (imm : Byte) : Laws.Shape.Statement (.calli imm) := ⟨rfl, fun _ => rfl⟩
theorem Laws.Shape.pop (r : Byte) : Laws.Shape.Statement (.pop r) := ⟨rfl, fun _ => rfl⟩
theorem Laws.Shape.push (r : Byte) : Laws.Shape.Statement (.push r) := ⟨rfl, fun _ => rfl⟩
theorem Laws.Shape.jmp (r : Byte) : Laws.Shape.Statement (.jmp r) := ⟨rfl, fun _ => rfl⟩
theorem Laws.Shape.jeq (r : Byte) : Laws.Shape.Statement (.jeq r) := ⟨rfl, fun _ => rfl⟩
theorem Laws.Shape.jne (r : Byte) : Laws.Shape.Statement (.jne r) := ⟨rfl, fun _ => rfl⟩
theorem Laws.Shape.jlt (r : Byte) : Laws.Shape.Statement (.jlt r) := ⟨rfl, fun _ => rfl⟩
theorem Laws.Shape.jgt (r : Byte) : Laws.Shape.Statement (.jgt r) := ⟨rfl, fun _ => rfl⟩
theorem Laws.Shape.jmpi (imm : Byte) : Laws.Shape.Statement (.jmpi imm) := ⟨rfl, fun _ => rfl⟩
theorem Laws.Shape.not (r : Byte) : Laws.Shape.Statement (.not r) := ⟨rfl, fun _ => rfl⟩
theorem Laws.Shape.inc (r : Byte) : Laws.Shape.Statement (.inc r) := ⟨rfl, fun _ => rfl⟩
theorem Laws.Shape.dec (r : Byte) : Laws.Shape.Statement (.dec r) := ⟨rfl, fun _ => rfl⟩
theorem Laws.Shape.cmpi (r imm : Byte) : Laws.Shape.Statement (.cmpi r imm) := ⟨rfl, rfl⟩
theorem Laws.Shape.addi (r imm : Byte) : Laws.Shape.Statement (.addi r imm) := ⟨rfl, rfl⟩
theorem Laws.Shape.subi (r imm : Byte) : Laws.Shape.Statement (.subi r imm) := ⟨rfl, rfl⟩
theorem Laws.Shape.muli (r imm : Byte) : Laws.Shape.Statement (.muli r imm) := ⟨rfl, rfl⟩
theorem Laws.Shape.divi (r imm : Byte) : Laws.Shape.Statement (.divi r imm) := ⟨rfl, rfl⟩
theorem Laws.Shape.modi (r imm : Byte) : Laws.Shape.Statement (.modi r imm) := ⟨rfl, rfl⟩
theorem Laws.Shape.drw (a b : Byte) : Laws.Shape.Statement (.drw a b) := ⟨rfl, rfl⟩
theorem Laws.Shape.ld (a b : Byte) : Laws.Shape.Statement (.ld a b) := ⟨rfl, rfl⟩
theorem Laws.Shape.ldi (r imm : Byte) : Laws.Shape.Statement (.ldi r imm) := ⟨rfl, rfl⟩
theorem Laws.Shape.st (a b : Byte) : Laws.Shape.Statement (.st a b) := ⟨rfl, rfl⟩
theorem Laws.Shape.cmp (a b : Byte) : Laws.Shape.Statement (.cmp a b) := ⟨rfl, rfl⟩
theorem Laws.Shape.add (a b : Byte) : Laws.Shape.Statement (.add a b) := ⟨rfl, rfl⟩
theorem Laws.Shape.sub (a b : Byte) : Laws.Shape.Statement (.sub a b) := ⟨rfl, rfl⟩
theorem Laws.Shape.mul (a b : Byte) : Laws.Shape.Statement (.mul a b) := ⟨rfl, rfl⟩
theorem Laws.Shape.div (a b : Byte) : Laws.Shape.Statement (.div a b) := ⟨rfl, rfl⟩
theorem Laws.Shape.mod (a b : Byte) : Laws.Shape.Statement (.mod a b) := ⟨rfl, rfl⟩
theorem Laws.Shape.or (a b : Byte) : Laws.Shape.Statement (.or a b) := ⟨rfl, rfl⟩
theorem Laws.Shape.xor (a b : Byte) : Laws.Shape.Statement (.xor a b) := ⟨rfl, rfl⟩
theorem Laws.Shape.and (a b : Byte) : Laws.Shape.Statement (.and a b) := ⟨rfl, rfl⟩

end Sys2Proof
end

