-- ==== Sys2Proof/Laws/Decode.lean ====
section
/-! SUPPORT. The opcode map, the decoder's rejections and the operand count. -/

namespace Sys2Proof

theorem operandCount_le (b : Byte) : operandCount b ≤ 3 := by
  have := b.isLt
  unfold operandCount
  omega

theorem Op.mem_all (o : Op) : o ∈ Op.all := by cases o <;> decide

theorem Op.format_operandCount_le (o : Op) : o.format.operandCount ≤ 2 := by cases o <;> decide

theorem Op.op_instr (o : Op) (opa opb : Byte) : (o.instr opa opb).op = o := by cases o <;> rfl

/-- The Bool `valid` says what 30_encoding.md R81 (a) and (b) say. -/
theorem OpcodeMap.valid_iff (m : OpcodeMap) :
    m.valid = true ↔
      (∀ o, operandCount (m.byte o) = o.format.operandCount) ∧ ∀ o p, m.byte o = m.byte p → o = p := by
  simp only [OpcodeMap.valid, List.all_eq_true, Op.mem_all, true_implies, Bool.and_eq_true, beq_iff_eq, Bool.or_eq_true,
    bne_iff_ne, ne_eq]
  constructor
  · intro h
    exact ⟨fun o => (h o).1, fun o p e => ((h o).2 p).resolve_right (fun n => n e)⟩
  · intro h o
    refine ⟨h.1 o, fun p => ?_⟩
    by_cases e : m.byte o = m.byte p
    · exact .inl (h.2 o p e)
    · exact .inr e

theorem OpcodeMap.valid_count {m : OpcodeMap} (h : m.valid = true) (o : Op) :
    operandCount (m.byte o) = o.format.operandCount :=
  ((OpcodeMap.valid_iff m).mp h).1 o

/-- The dispatcher selects an operation only by its own opcode byte. -/
theorem OpcodeMap.byte_of_opOf? {m : OpcodeMap} {b : Byte} {o : Op} (h : m.opOf? b = some o) : m.byte o = b := by
  simpa using List.find?_some h

/-- Under a valid map an operation's opcode byte selects that operation. -/
theorem OpcodeMap.opOf?_byte {m : OpcodeMap} (h : m.valid = true) (o : Op) : m.opOf? (m.byte o) = some o := by
  cases e : m.opOf? (m.byte o) with
  | none =>
    have := List.find?_eq_none.mp e o (Op.mem_all o)
    simp at this
  | some p => rw [((OpcodeMap.valid_iff m).mp h).2 p o (OpcodeMap.byte_of_opOf? e)]

theorem defaultOpc_valid : defaultOpc.valid = true := by decide

end Sys2Proof
end

