-- ==== Sys2Proof/Laws/Memory.lean ====
section
/-! SUPPORT. Memory: a read after a write, a write leaves every other address alone, and every write keeps the canonical form. -/

namespace Sys2Proof.Machine

/-- Below its first address a canonical memory reads as memory that nothing has written. -/
theorem memLookup_below {low a : Nat} {m : List Host.Cell} (h : memCanonicalFrom low m = true) (ha : a < low) :
    memLookup m a = memDefault := by
  induction m generalizing low with
  | nil => rfl
  | cons cell rest ih =>
    obtain ⟨c, w⟩ := cell
    simp only [memCanonicalFrom, Bool.and_eq_true, decide_eq_true_eq] at h
    rw [memLookup, if_neg (by omega)]
    exact ih h.2 (by omega)

theorem memLookup_memStore_same {low a : Nat} {m : List Host.Cell} (v : Byte) (h : memCanonicalFrom low m = true) :
    memLookup (memStore m a v) a = v := by
  induction m generalizing low with
  | nil => by_cases hv : v = memDefault <;> simp [memStore, memLookup, hv]
  | cons cell rest ih =>
    obtain ⟨c, w⟩ := cell
    simp only [memCanonicalFrom, Bool.and_eq_true, decide_eq_true_eq] at h
    have below : ∀ x < c + 1, memLookup rest x = memDefault := fun x hx => memLookup_below h.2 hx
    rcases Nat.lt_trichotomy a c with hlt | heq | hgt
    · by_cases hv : v = memDefault
      · simp [memStore, hlt, hv, memLookup, below a (by omega), Nat.ne_of_gt hlt]
      · simp [memStore, hlt, hv, memLookup]
    · subst heq
      by_cases hv : v = memDefault <;> simp [memStore, hv, memLookup, below]
    · simp [memStore, memLookup, show ¬ a < c by omega, show ¬ a = c by omega, show ¬ c = a by omega, ih h.2]

theorem memLookup_memStore_other {a b : Nat} (m : List Host.Cell) (v : Byte) (hab : b ≠ a) :
    memLookup (memStore m a v) b = memLookup m b := by
  induction m with
  | nil => by_cases hv : v = memDefault <;> simp [memStore, memLookup, hv, hab.symm]
  | cons cell rest ih =>
    obtain ⟨c, w⟩ := cell
    rcases Nat.lt_trichotomy a c with hlt | heq | hgt
    · by_cases hv : v = memDefault <;> simp [memStore, hlt, hv, memLookup, hab.symm]
    · subst heq
      by_cases hv : v = memDefault <;> simp [memStore, hv, memLookup, hab.symm]
    · simp [memStore, memLookup, show ¬ a < c by omega, show ¬ a = c by omega, ih]

theorem memStore_canonical {low a : Nat} {m : List Host.Cell} (v : Byte) (h : memCanonicalFrom low m = true)
    (hlow : low ≤ a) (ha : a < 256) : memCanonicalFrom low (memStore m a v) = true := by
  have ofLower : ∀ {l l' : Nat} {n : List Host.Cell}, l' ≤ l → memCanonicalFrom l n = true →
      memCanonicalFrom l' n = true := by
    intro l l' n hl hn
    cases n with
    | nil => rfl
    | cons cell rest =>
      simp only [memCanonicalFrom, Bool.and_eq_true, decide_eq_true_eq] at hn ⊢
      exact ⟨⟨⟨by omega, hn.1.1.2⟩, hn.1.2⟩, hn.2⟩
  induction m generalizing low with
  | nil => by_cases hv : v = memDefault <;> simp [memStore, memCanonicalFrom, hv, hlow, ha]
  | cons cell rest ih =>
    obtain ⟨c, w⟩ := cell
    have h' := h
    simp only [memCanonicalFrom, Bool.and_eq_true, decide_eq_true_eq] at h
    rcases Nat.lt_trichotomy a c with hlt | heq | hgt
    · by_cases hv : v = memDefault
      · simpa [memStore, hlt, hv] using h'
      · simp [memStore, hlt, hv, memCanonicalFrom, hlow, ha, h.1.1.2, h.2, show a + 1 ≤ c by omega]
        simpa using h.1.2
    · subst heq
      by_cases hv : v = memDefault
      · simpa [memStore, hv] using ofLower (by omega) h.2
      · simp [memStore, hv, memCanonicalFrom, hlow, ha, h.2]
    · simp only [memStore, if_neg (show ¬ a < c by omega), if_neg (show ¬ a = c by omega), memCanonicalFrom,
        Bool.and_eq_true, decide_eq_true_eq]
      exact ⟨h.1, ih h.2 (by omega)⟩

/-- Storing a byte at one of the 256 addresses keeps the canonical form. -/
theorem Memory.wf_memStore {m : List Host.Cell} (a v : Byte) (h : Memory.wf m = true) :
    Memory.wf (memStore m a.toNat v) = true :=
  memStore_canonical v h (Nat.zero_le _) a.isLt

end Sys2Proof.Machine
end

