-- ==== Sys2Proof/Laws/State.lean ====
section
/-! SUPPORT. For every operation that changes the state, what it leaves in each field: one lemma per field, true by
unfolding, so that no later proof unfolds a record update. -/

namespace Sys2Proof.Machine

/-! ### memWrite -/

@[simp] theorem memWrite_regs (a v : Byte) (s : State) : (s.memWrite a v).regs = s.regs := rfl
@[simp] theorem memWrite_pc (a v : Byte) (s : State) : (s.memWrite a v).pc = s.pc := rfl
@[simp] theorem memWrite_fl (a v : Byte) (s : State) : (s.memWrite a v).fl = s.fl := rfl
@[simp] theorem memWrite_ie (a v : Byte) (s : State) : (s.memWrite a v).ie = s.ie := rfl
@[simp] theorem memWrite_ir (a v : Byte) (s : State) : (s.memWrite a v).ir = s.ir := rfl
@[simp] theorem memWrite_opa (a v : Byte) (s : State) : (s.memWrite a v).opa = s.opa := rfl
@[simp] theorem memWrite_opb (a v : Byte) (s : State) : (s.memWrite a v).opb = s.opb := rfl
@[simp] theorem memWrite_pcset (a v : Byte) (s : State) : (s.memWrite a v).pcset = s.pcset := rfl
@[simp] theorem memWrite_halted (a v : Byte) (s : State) : (s.memWrite a v).halted = s.halted := rfl
@[simp] theorem memWrite_haltReason (a v : Byte) (s : State) : (s.memWrite a v).haltReason = s.haltReason := rfl
@[simp] theorem memWrite_haltInfo (a v : Byte) (s : State) : (s.memWrite a v).haltInfo = s.haltInfo := rfl
@[simp] theorem memWrite_out (a v : Byte) (s : State) : (s.memWrite a v).out = s.out := rfl
@[simp] theorem memWrite_mem (a v : Byte) (s : State) : (s.memWrite a v).mem = memStore s.mem a.toNat v := rfl
@[simp] theorem memWrite_cfg (a v : Byte) (s : State) : (s.memWrite a v).cfg = s.cfg := rfl

/-! ### setReg -/

@[simp] theorem setReg_regs (r : Reg) (v : Byte) (s : State) : (s.setReg r v).regs = regsWrite s.regs v r := rfl
@[simp] theorem setReg_pc (r : Reg) (v : Byte) (s : State) : (s.setReg r v).pc = s.pc := rfl
@[simp] theorem setReg_fl (r : Reg) (v : Byte) (s : State) : (s.setReg r v).fl = s.fl := rfl
@[simp] theorem setReg_ie (r : Reg) (v : Byte) (s : State) : (s.setReg r v).ie = s.ie := rfl
@[simp] theorem setReg_ir (r : Reg) (v : Byte) (s : State) : (s.setReg r v).ir = s.ir := rfl
@[simp] theorem setReg_opa (r : Reg) (v : Byte) (s : State) : (s.setReg r v).opa = s.opa := rfl
@[simp] theorem setReg_opb (r : Reg) (v : Byte) (s : State) : (s.setReg r v).opb = s.opb := rfl
@[simp] theorem setReg_pcset (r : Reg) (v : Byte) (s : State) : (s.setReg r v).pcset = s.pcset := rfl
@[simp] theorem setReg_halted (r : Reg) (v : Byte) (s : State) : (s.setReg r v).halted = s.halted := rfl
@[simp] theorem setReg_haltReason (r : Reg) (v : Byte) (s : State) : (s.setReg r v).haltReason = s.haltReason := rfl
@[simp] theorem setReg_haltInfo (r : Reg) (v : Byte) (s : State) : (s.setReg r v).haltInfo = s.haltInfo := rfl
@[simp] theorem setReg_out (r : Reg) (v : Byte) (s : State) : (s.setReg r v).out = s.out := rfl
@[simp] theorem setReg_mem (r : Reg) (v : Byte) (s : State) : (s.setReg r v).mem = s.mem := rfl
@[simp] theorem setReg_cfg (r : Reg) (v : Byte) (s : State) : (s.setReg r v).cfg = s.cfg := rfl

/-! ### setFl -/

@[simp] theorem setFl_regs (v : Byte) (s : State) : (s.setFl v).regs = s.regs := rfl
@[simp] theorem setFl_pc (v : Byte) (s : State) : (s.setFl v).pc = s.pc := rfl
@[simp] theorem setFl_fl (v : Byte) (s : State) : (s.setFl v).fl = v := rfl
@[simp] theorem setFl_ie (v : Byte) (s : State) : (s.setFl v).ie = s.ie := rfl
@[simp] theorem setFl_ir (v : Byte) (s : State) : (s.setFl v).ir = s.ir := rfl
@[simp] theorem setFl_opa (v : Byte) (s : State) : (s.setFl v).opa = s.opa := rfl
@[simp] theorem setFl_opb (v : Byte) (s : State) : (s.setFl v).opb = s.opb := rfl
@[simp] theorem setFl_pcset (v : Byte) (s : State) : (s.setFl v).pcset = s.pcset := rfl
@[simp] theorem setFl_halted (v : Byte) (s : State) : (s.setFl v).halted = s.halted := rfl
@[simp] theorem setFl_haltReason (v : Byte) (s : State) : (s.setFl v).haltReason = s.haltReason := rfl
@[simp] theorem setFl_haltInfo (v : Byte) (s : State) : (s.setFl v).haltInfo = s.haltInfo := rfl
@[simp] theorem setFl_out (v : Byte) (s : State) : (s.setFl v).out = s.out := rfl
@[simp] theorem setFl_mem (v : Byte) (s : State) : (s.setFl v).mem = s.mem := rfl
@[simp] theorem setFl_cfg (v : Byte) (s : State) : (s.setFl v).cfg = s.cfg := rfl

/-! ### setIe -/

@[simp] theorem setIe_regs (v : Bool) (s : State) : (s.setIe v).regs = s.regs := rfl
@[simp] theorem setIe_pc (v : Bool) (s : State) : (s.setIe v).pc = s.pc := rfl
@[simp] theorem setIe_fl (v : Bool) (s : State) : (s.setIe v).fl = s.fl := rfl
@[simp] theorem setIe_ie (v : Bool) (s : State) : (s.setIe v).ie = v := rfl
@[simp] theorem setIe_ir (v : Bool) (s : State) : (s.setIe v).ir = s.ir := rfl
@[simp] theorem setIe_opa (v : Bool) (s : State) : (s.setIe v).opa = s.opa := rfl
@[simp] theorem setIe_opb (v : Bool) (s : State) : (s.setIe v).opb = s.opb := rfl
@[simp] theorem setIe_pcset (v : Bool) (s : State) : (s.setIe v).pcset = s.pcset := rfl
@[simp] theorem setIe_halted (v : Bool) (s : State) : (s.setIe v).halted = s.halted := rfl
@[simp] theorem setIe_haltReason (v : Bool) (s : State) : (s.setIe v).haltReason = s.haltReason := rfl
@[simp] theorem setIe_haltInfo (v : Bool) (s : State) : (s.setIe v).haltInfo = s.haltInfo := rfl
@[simp] theorem setIe_out (v : Bool) (s : State) : (s.setIe v).out = s.out := rfl
@[simp] theorem setIe_mem (v : Bool) (s : State) : (s.setIe v).mem = s.mem := rfl
@[simp] theorem setIe_cfg (v : Bool) (s : State) : (s.setIe v).cfg = s.cfg := rfl

/-! ### setPc -/

@[simp] theorem setPc_regs (v : Byte) (s : State) : (s.setPc v).regs = s.regs := rfl
@[simp] theorem setPc_pc (v : Byte) (s : State) : (s.setPc v).pc = v := rfl
@[simp] theorem setPc_fl (v : Byte) (s : State) : (s.setPc v).fl = s.fl := rfl
@[simp] theorem setPc_ie (v : Byte) (s : State) : (s.setPc v).ie = s.ie := rfl
@[simp] theorem setPc_ir (v : Byte) (s : State) : (s.setPc v).ir = s.ir := rfl
@[simp] theorem setPc_opa (v : Byte) (s : State) : (s.setPc v).opa = s.opa := rfl
@[simp] theorem setPc_opb (v : Byte) (s : State) : (s.setPc v).opb = s.opb := rfl
@[simp] theorem setPc_pcset (v : Byte) (s : State) : (s.setPc v).pcset = s.pcset := rfl
@[simp] theorem setPc_halted (v : Byte) (s : State) : (s.setPc v).halted = s.halted := rfl
@[simp] theorem setPc_haltReason (v : Byte) (s : State) : (s.setPc v).haltReason = s.haltReason := rfl
@[simp] theorem setPc_haltInfo (v : Byte) (s : State) : (s.setPc v).haltInfo = s.haltInfo := rfl
@[simp] theorem setPc_out (v : Byte) (s : State) : (s.setPc v).out = s.out := rfl
@[simp] theorem setPc_mem (v : Byte) (s : State) : (s.setPc v).mem = s.mem := rfl
@[simp] theorem setPc_cfg (v : Byte) (s : State) : (s.setPc v).cfg = s.cfg := rfl

/-! ### setPcset -/

@[simp] theorem setPcset_regs (v : Bool) (s : State) : (s.setPcset v).regs = s.regs := rfl
@[simp] theorem setPcset_pc (v : Bool) (s : State) : (s.setPcset v).pc = s.pc := rfl
@[simp] theorem setPcset_fl (v : Bool) (s : State) : (s.setPcset v).fl = s.fl := rfl
@[simp] theorem setPcset_ie (v : Bool) (s : State) : (s.setPcset v).ie = s.ie := rfl
@[simp] theorem setPcset_ir (v : Bool) (s : State) : (s.setPcset v).ir = s.ir := rfl
@[simp] theorem setPcset_opa (v : Bool) (s : State) : (s.setPcset v).opa = s.opa := rfl
@[simp] theorem setPcset_opb (v : Bool) (s : State) : (s.setPcset v).opb = s.opb := rfl
@[simp] theorem setPcset_pcset (v : Bool) (s : State) : (s.setPcset v).pcset = v := rfl
@[simp] theorem setPcset_halted (v : Bool) (s : State) : (s.setPcset v).halted = s.halted := rfl
@[simp] theorem setPcset_haltReason (v : Bool) (s : State) : (s.setPcset v).haltReason = s.haltReason := rfl
@[simp] theorem setPcset_haltInfo (v : Bool) (s : State) : (s.setPcset v).haltInfo = s.haltInfo := rfl
@[simp] theorem setPcset_out (v : Bool) (s : State) : (s.setPcset v).out = s.out := rfl
@[simp] theorem setPcset_mem (v : Bool) (s : State) : (s.setPcset v).mem = s.mem := rfl
@[simp] theorem setPcset_cfg (v : Bool) (s : State) : (s.setPcset v).cfg = s.cfg := rfl

/-! ### transfer -/

@[simp] theorem transfer_regs (v : Byte) (s : State) : (s.transfer v).regs = s.regs := rfl
@[simp] theorem transfer_pc (v : Byte) (s : State) : (s.transfer v).pc = v := rfl
@[simp] theorem transfer_fl (v : Byte) (s : State) : (s.transfer v).fl = s.fl := rfl
@[simp] theorem transfer_ie (v : Byte) (s : State) : (s.transfer v).ie = s.ie := rfl
@[simp] theorem transfer_ir (v : Byte) (s : State) : (s.transfer v).ir = s.ir := rfl
@[simp] theorem transfer_opa (v : Byte) (s : State) : (s.transfer v).opa = s.opa := rfl
@[simp] theorem transfer_opb (v : Byte) (s : State) : (s.transfer v).opb = s.opb := rfl
@[simp] theorem transfer_pcset (v : Byte) (s : State) : (s.transfer v).pcset = true := rfl
@[simp] theorem transfer_halted (v : Byte) (s : State) : (s.transfer v).halted = s.halted := rfl
@[simp] theorem transfer_haltReason (v : Byte) (s : State) : (s.transfer v).haltReason = s.haltReason := rfl
@[simp] theorem transfer_haltInfo (v : Byte) (s : State) : (s.transfer v).haltInfo = s.haltInfo := rfl
@[simp] theorem transfer_out (v : Byte) (s : State) : (s.transfer v).out = s.out := rfl
@[simp] theorem transfer_mem (v : Byte) (s : State) : (s.transfer v).mem = s.mem := rfl
@[simp] theorem transfer_cfg (v : Byte) (s : State) : (s.transfer v).cfg = s.cfg := rfl

/-! ### emit -/

@[simp] theorem emit_regs (e : DisplayEvent) (s : State) : (s.emit e).regs = s.regs := rfl
@[simp] theorem emit_pc (e : DisplayEvent) (s : State) : (s.emit e).pc = s.pc := rfl
@[simp] theorem emit_fl (e : DisplayEvent) (s : State) : (s.emit e).fl = s.fl := rfl
@[simp] theorem emit_ie (e : DisplayEvent) (s : State) : (s.emit e).ie = s.ie := rfl
@[simp] theorem emit_ir (e : DisplayEvent) (s : State) : (s.emit e).ir = s.ir := rfl
@[simp] theorem emit_opa (e : DisplayEvent) (s : State) : (s.emit e).opa = s.opa := rfl
@[simp] theorem emit_opb (e : DisplayEvent) (s : State) : (s.emit e).opb = s.opb := rfl
@[simp] theorem emit_pcset (e : DisplayEvent) (s : State) : (s.emit e).pcset = s.pcset := rfl
@[simp] theorem emit_halted (e : DisplayEvent) (s : State) : (s.emit e).halted = s.halted := rfl
@[simp] theorem emit_haltReason (e : DisplayEvent) (s : State) : (s.emit e).haltReason = s.haltReason := rfl
@[simp] theorem emit_haltInfo (e : DisplayEvent) (s : State) : (s.emit e).haltInfo = s.haltInfo := rfl
@[simp] theorem emit_out (e : DisplayEvent) (s : State) : (s.emit e).out = s.out ++ [e] := rfl
@[simp] theorem emit_mem (e : DisplayEvent) (s : State) : (s.emit e).mem = s.mem := rfl
@[simp] theorem emit_cfg (e : DisplayEvent) (s : State) : (s.emit e).cfg = s.cfg := rfl

/-! ### halt -/

@[simp] theorem halt_regs (k : HaltReason) (i : HaltInfo) (s : State) : (s.halt k i).regs = s.regs := rfl
@[simp] theorem halt_pc (k : HaltReason) (i : HaltInfo) (s : State) : (s.halt k i).pc = s.pc := rfl
@[simp] theorem halt_fl (k : HaltReason) (i : HaltInfo) (s : State) : (s.halt k i).fl = s.fl := rfl
@[simp] theorem halt_ie (k : HaltReason) (i : HaltInfo) (s : State) : (s.halt k i).ie = s.ie := rfl
@[simp] theorem halt_ir (k : HaltReason) (i : HaltInfo) (s : State) : (s.halt k i).ir = s.ir := rfl
@[simp] theorem halt_opa (k : HaltReason) (i : HaltInfo) (s : State) : (s.halt k i).opa = s.opa := rfl
@[simp] theorem halt_opb (k : HaltReason) (i : HaltInfo) (s : State) : (s.halt k i).opb = s.opb := rfl
@[simp] theorem halt_pcset (k : HaltReason) (i : HaltInfo) (s : State) : (s.halt k i).pcset = s.pcset := rfl
@[simp] theorem halt_halted (k : HaltReason) (i : HaltInfo) (s : State) : (s.halt k i).halted = true := rfl
@[simp] theorem halt_haltReason (k : HaltReason) (i : HaltInfo) (s : State) : (s.halt k i).haltReason = k := rfl
@[simp] theorem halt_haltInfo (k : HaltReason) (i : HaltInfo) (s : State) : (s.halt k i).haltInfo = i := rfl
@[simp] theorem halt_out (k : HaltReason) (i : HaltInfo) (s : State) : (s.halt k i).out = s.out := rfl
@[simp] theorem halt_mem (k : HaltReason) (i : HaltInfo) (s : State) : (s.halt k i).mem = s.mem := rfl
@[simp] theorem halt_cfg (k : HaltReason) (i : HaltInfo) (s : State) : (s.halt k i).cfg = s.cfg := rfl

/-! ### push -/

@[simp] theorem push_regs (v : Byte) (s : State) : (s.push v).regs = regsWrite s.regs (s.sp - 1) .r7 := rfl
@[simp] theorem push_pc (v : Byte) (s : State) : (s.push v).pc = s.pc := rfl
@[simp] theorem push_fl (v : Byte) (s : State) : (s.push v).fl = s.fl := rfl
@[simp] theorem push_ie (v : Byte) (s : State) : (s.push v).ie = s.ie := rfl
@[simp] theorem push_ir (v : Byte) (s : State) : (s.push v).ir = s.ir := rfl
@[simp] theorem push_opa (v : Byte) (s : State) : (s.push v).opa = s.opa := rfl
@[simp] theorem push_opb (v : Byte) (s : State) : (s.push v).opb = s.opb := rfl
@[simp] theorem push_pcset (v : Byte) (s : State) : (s.push v).pcset = s.pcset := rfl
@[simp] theorem push_halted (v : Byte) (s : State) : (s.push v).halted = s.halted := rfl
@[simp] theorem push_haltReason (v : Byte) (s : State) : (s.push v).haltReason = s.haltReason := rfl
@[simp] theorem push_haltInfo (v : Byte) (s : State) : (s.push v).haltInfo = s.haltInfo := rfl
@[simp] theorem push_out (v : Byte) (s : State) : (s.push v).out = s.out := rfl
@[simp] theorem push_mem (v : Byte) (s : State) : (s.push v).mem = memStore s.mem (s.sp - 1).toNat v := rfl
@[simp] theorem push_cfg (v : Byte) (s : State) : (s.push v).cfg = s.cfg := rfl

/-! ### fetch -/

@[simp] theorem fetch_regs (s : State) : (s.fetch).regs = s.regs := rfl
@[simp] theorem fetch_pc (s : State) : (s.fetch).pc = s.pc := rfl
@[simp] theorem fetch_fl (s : State) : (s.fetch).fl = s.fl := rfl
@[simp] theorem fetch_ie (s : State) : (s.fetch).ie = s.ie := rfl
@[simp] theorem fetch_ir (s : State) : (s.fetch).ir = s.memRead s.pc := rfl
@[simp] theorem fetch_opa (s : State) : (s.fetch).opa = if 1 ≤ operandCount (s.memRead s.pc) then s.memRead (s.pc + 1) else s.opa := rfl
@[simp] theorem fetch_opb (s : State) : (s.fetch).opb = if 2 ≤ operandCount (s.memRead s.pc) then s.memRead (s.pc + 2) else s.opb := rfl
@[simp] theorem fetch_pcset (s : State) : (s.fetch).pcset = s.pcset := rfl
@[simp] theorem fetch_halted (s : State) : (s.fetch).halted = s.halted := rfl
@[simp] theorem fetch_haltReason (s : State) : (s.fetch).haltReason = s.haltReason := rfl
@[simp] theorem fetch_haltInfo (s : State) : (s.fetch).haltInfo = s.haltInfo := rfl
@[simp] theorem fetch_out (s : State) : (s.fetch).out = s.out := rfl
@[simp] theorem fetch_mem (s : State) : (s.fetch).mem = s.mem := rfl
@[simp] theorem fetch_cfg (s : State) : (s.fetch).cfg = s.cfg := rfl

/-! ### popState -/

@[simp] theorem popState_regs (s : State) : (s.pop.2).regs = regsWrite s.regs (s.sp + 1) .r7 := rfl
@[simp] theorem popState_pc (s : State) : (s.pop.2).pc = s.pc := rfl
@[simp] theorem popState_fl (s : State) : (s.pop.2).fl = s.fl := rfl
@[simp] theorem popState_ie (s : State) : (s.pop.2).ie = s.ie := rfl
@[simp] theorem popState_ir (s : State) : (s.pop.2).ir = s.ir := rfl
@[simp] theorem popState_opa (s : State) : (s.pop.2).opa = s.opa := rfl
@[simp] theorem popState_opb (s : State) : (s.pop.2).opb = s.opb := rfl
@[simp] theorem popState_pcset (s : State) : (s.pop.2).pcset = s.pcset := rfl
@[simp] theorem popState_halted (s : State) : (s.pop.2).halted = s.halted := rfl
@[simp] theorem popState_haltReason (s : State) : (s.pop.2).haltReason = s.haltReason := rfl
@[simp] theorem popState_haltInfo (s : State) : (s.pop.2).haltInfo = s.haltInfo := rfl
@[simp] theorem popState_out (s : State) : (s.pop.2).out = s.out := rfl
@[simp] theorem popState_mem (s : State) : (s.pop.2).mem = s.mem := rfl
@[simp] theorem popState_cfg (s : State) : (s.pop.2).cfg = s.cfg := rfl

/-! ### popInto -/

@[simp] theorem popInto_regs (r : Reg) (s : State) : (s.popInto r).regs = regsWrite (regsWrite s.regs (s.sp + 1) .r7) (s.memRead s.sp) r := rfl
@[simp] theorem popInto_pc (r : Reg) (s : State) : (s.popInto r).pc = s.pc := rfl
@[simp] theorem popInto_fl (r : Reg) (s : State) : (s.popInto r).fl = s.fl := rfl
@[simp] theorem popInto_ie (r : Reg) (s : State) : (s.popInto r).ie = s.ie := rfl
@[simp] theorem popInto_ir (r : Reg) (s : State) : (s.popInto r).ir = s.ir := rfl
@[simp] theorem popInto_opa (r : Reg) (s : State) : (s.popInto r).opa = s.opa := rfl
@[simp] theorem popInto_opb (r : Reg) (s : State) : (s.popInto r).opb = s.opb := rfl
@[simp] theorem popInto_pcset (r : Reg) (s : State) : (s.popInto r).pcset = s.pcset := rfl
@[simp] theorem popInto_halted (r : Reg) (s : State) : (s.popInto r).halted = s.halted := rfl
@[simp] theorem popInto_haltReason (r : Reg) (s : State) : (s.popInto r).haltReason = s.haltReason := rfl
@[simp] theorem popInto_haltInfo (r : Reg) (s : State) : (s.popInto r).haltInfo = s.haltInfo := rfl
@[simp] theorem popInto_out (r : Reg) (s : State) : (s.popInto r).out = s.out := rfl
@[simp] theorem popInto_mem (r : Reg) (s : State) : (s.popInto r).mem = s.mem := rfl
@[simp] theorem popInto_cfg (r : Reg) (s : State) : (s.popInto r).cfg = s.cfg := rfl

/-! ### badRegister -/

@[simp] theorem badRegister_regs (s : State) : (s.badRegister).regs = s.regs := rfl
@[simp] theorem badRegister_pc (s : State) : (s.badRegister).pc = s.pc := rfl
@[simp] theorem badRegister_fl (s : State) : (s.badRegister).fl = s.fl := rfl
@[simp] theorem badRegister_ie (s : State) : (s.badRegister).ie = s.ie := rfl
@[simp] theorem badRegister_ir (s : State) : (s.badRegister).ir = s.ir := rfl
@[simp] theorem badRegister_opa (s : State) : (s.badRegister).opa = s.opa := rfl
@[simp] theorem badRegister_opb (s : State) : (s.badRegister).opb = s.opb := rfl
@[simp] theorem badRegister_pcset (s : State) : (s.badRegister).pcset = s.pcset := rfl
@[simp] theorem badRegister_halted (s : State) : (s.badRegister).halted = true := rfl
@[simp] theorem badRegister_haltReason (s : State) : (s.badRegister).haltReason = .badRegister := rfl
@[simp] theorem badRegister_haltInfo (s : State) : (s.badRegister).haltInfo = .badRegister s.pc s.ir s.operandBytes := rfl
@[simp] theorem badRegister_out (s : State) : (s.badRegister).out = s.out := rfl
@[simp] theorem badRegister_mem (s : State) : (s.badRegister).mem = s.mem := rfl
@[simp] theorem badRegister_cfg (s : State) : (s.badRegister).cfg = s.cfg := rfl

/-! ### call -/

@[simp] theorem call_regs (v : Byte) (s : State) : (s.call v).regs = regsWrite s.regs (s.sp - 1) .r7 := rfl
@[simp] theorem call_pc (v : Byte) (s : State) : (s.call v).pc = v := rfl
@[simp] theorem call_fl (v : Byte) (s : State) : (s.call v).fl = s.fl := rfl
@[simp] theorem call_ie (v : Byte) (s : State) : (s.call v).ie = s.ie := rfl
@[simp] theorem call_ir (v : Byte) (s : State) : (s.call v).ir = s.ir := rfl
@[simp] theorem call_opa (v : Byte) (s : State) : (s.call v).opa = s.opa := rfl
@[simp] theorem call_opb (v : Byte) (s : State) : (s.call v).opb = s.opb := rfl
@[simp] theorem call_pcset (v : Byte) (s : State) : (s.call v).pcset = true := rfl
@[simp] theorem call_halted (v : Byte) (s : State) : (s.call v).halted = s.halted := rfl
@[simp] theorem call_haltReason (v : Byte) (s : State) : (s.call v).haltReason = s.haltReason := rfl
@[simp] theorem call_haltInfo (v : Byte) (s : State) : (s.call v).haltInfo = s.haltInfo := rfl
@[simp] theorem call_out (v : Byte) (s : State) : (s.call v).out = s.out := rfl
@[simp] theorem call_mem (v : Byte) (s : State) : (s.call v).mem = memStore s.mem (s.sp - 1).toNat (s.pc + 2) := rfl
@[simp] theorem call_cfg (v : Byte) (s : State) : (s.call v).cfg = s.cfg := rfl

end Sys2Proof.Machine
end

