-- ==== Sys2Proof/Laws/Ops.lean ====
section
/-! SUPPORT. The shared operations: reading a register or a byte of memory after each of them, and one lemma per operation
that says all it does. -/

namespace Sys2Proof.Machine

/-! ### Registers -/

@[simp] theorem regsRead_regsWrite_same (g : Regs) (v : Byte) (r : Reg) : regsRead (regsWrite g v r) r = v := by
  cases r <;> rfl

theorem regsRead_regsWrite_other (g : Regs) (v : Byte) {q r : Reg} (h : r ≠ q) :
    regsRead (regsWrite g v q) r = regsRead g r := by
  cases q <;> cases r <;> first | rfl | exact absurd rfl h

theorem regsRead_regsWrite (g : Regs) (v : Byte) (q r : Reg) :
    regsRead (regsWrite g v q) r = if r = q then v else regsRead g r := by
  by_cases h : r = q
  · simp [h]
  · simp [h, regsRead_regsWrite_other g v h]

theorem reg_setReg (q r : Reg) (v : Byte) (s : State) : (s.setReg q v).reg r = if r = q then v else s.reg r :=
  regsRead_regsWrite s.regs v q r

@[simp] theorem reg_setReg_same (r : Reg) (v : Byte) (s : State) : (s.setReg r v).reg r = v :=
  regsRead_regsWrite_same s.regs v r

theorem reg_setReg_other {q r : Reg} (v : Byte) (s : State) (h : r ≠ q) : (s.setReg q v).reg r = s.reg r :=
  regsRead_regsWrite_other s.regs v h

/-- Registers with the same readings are equal. -/
theorem regs_ext {g k : Regs} (h : ∀ r, regsRead g r = regsRead k r) : g = k := by
  cases g; cases k
  simp only [Regs.mk.injEq]
  exact ⟨h .r0, h .r1, h .r2, h .r3, h .r4, h .r5, h .r6, h .r7⟩

/-! ### Reading a register after an operation -/

@[simp] theorem reg_memWrite (r : Reg) (a v : Byte) (s : State) : (s.memWrite a v).reg r = s.reg r := rfl
@[simp] theorem reg_setFl (r : Reg) (v : Byte) (s : State) : (s.setFl v).reg r = s.reg r := rfl
@[simp] theorem reg_setIe (r : Reg) (v : Bool) (s : State) : (s.setIe v).reg r = s.reg r := rfl
@[simp] theorem reg_setPc (r : Reg) (v : Byte) (s : State) : (s.setPc v).reg r = s.reg r := rfl
@[simp] theorem reg_setPcset (r : Reg) (v : Bool) (s : State) : (s.setPcset v).reg r = s.reg r := rfl
@[simp] theorem reg_transfer (r : Reg) (v : Byte) (s : State) : (s.transfer v).reg r = s.reg r := rfl
@[simp] theorem reg_emit (r : Reg) (e : DisplayEvent) (s : State) : (s.emit e).reg r = s.reg r := rfl
@[simp] theorem reg_halt (r : Reg) (k : HaltReason) (i : HaltInfo) (s : State) : (s.halt k i).reg r = s.reg r := rfl
@[simp] theorem reg_fetch (r : Reg) (s : State) : (s.fetch).reg r = s.reg r := rfl

/-! ### Reading SP, IM and IS after an operation that writes no register -/

@[simp] theorem sp_memWrite (a v : Byte) (s : State) : (s.memWrite a v).sp = s.sp := rfl
@[simp] theorem im_memWrite (a v : Byte) (s : State) : (s.memWrite a v).im = s.im := rfl
@[simp] theorem is_memWrite (a v : Byte) (s : State) : (s.memWrite a v).is = s.is := rfl
@[simp] theorem sp_setFl (v : Byte) (s : State) : (s.setFl v).sp = s.sp := rfl
@[simp] theorem im_setFl (v : Byte) (s : State) : (s.setFl v).im = s.im := rfl
@[simp] theorem is_setFl (v : Byte) (s : State) : (s.setFl v).is = s.is := rfl
@[simp] theorem sp_setIe (v : Bool) (s : State) : (s.setIe v).sp = s.sp := rfl
@[simp] theorem im_setIe (v : Bool) (s : State) : (s.setIe v).im = s.im := rfl
@[simp] theorem is_setIe (v : Bool) (s : State) : (s.setIe v).is = s.is := rfl
@[simp] theorem sp_setPc (v : Byte) (s : State) : (s.setPc v).sp = s.sp := rfl
@[simp] theorem im_setPc (v : Byte) (s : State) : (s.setPc v).im = s.im := rfl
@[simp] theorem is_setPc (v : Byte) (s : State) : (s.setPc v).is = s.is := rfl
@[simp] theorem sp_setPcset (v : Bool) (s : State) : (s.setPcset v).sp = s.sp := rfl
@[simp] theorem im_setPcset (v : Bool) (s : State) : (s.setPcset v).im = s.im := rfl
@[simp] theorem is_setPcset (v : Bool) (s : State) : (s.setPcset v).is = s.is := rfl
@[simp] theorem sp_transfer (v : Byte) (s : State) : (s.transfer v).sp = s.sp := rfl
@[simp] theorem im_transfer (v : Byte) (s : State) : (s.transfer v).im = s.im := rfl
@[simp] theorem is_transfer (v : Byte) (s : State) : (s.transfer v).is = s.is := rfl
@[simp] theorem sp_emit (e : DisplayEvent) (s : State) : (s.emit e).sp = s.sp := rfl
@[simp] theorem im_emit (e : DisplayEvent) (s : State) : (s.emit e).im = s.im := rfl
@[simp] theorem is_emit (e : DisplayEvent) (s : State) : (s.emit e).is = s.is := rfl
@[simp] theorem sp_halt (k : HaltReason) (i : HaltInfo) (s : State) : (s.halt k i).sp = s.sp := rfl
@[simp] theorem im_halt (k : HaltReason) (i : HaltInfo) (s : State) : (s.halt k i).im = s.im := rfl
@[simp] theorem is_halt (k : HaltReason) (i : HaltInfo) (s : State) : (s.halt k i).is = s.is := rfl
@[simp] theorem sp_fetch (s : State) : (s.fetch).sp = s.sp := rfl
@[simp] theorem im_fetch (s : State) : (s.fetch).im = s.im := rfl
@[simp] theorem is_fetch (s : State) : (s.fetch).is = s.is := rfl

/-! ### Reading memory after an operation -/

@[simp] theorem memRead_setReg (x : Byte) (q : Reg) (v : Byte) (s : State) : (s.setReg q v).memRead x = s.memRead x := rfl
@[simp] theorem memRead_setFl (x : Byte) (v : Byte) (s : State) : (s.setFl v).memRead x = s.memRead x := rfl
@[simp] theorem memRead_setIe (x : Byte) (v : Bool) (s : State) : (s.setIe v).memRead x = s.memRead x := rfl
@[simp] theorem memRead_setPc (x : Byte) (v : Byte) (s : State) : (s.setPc v).memRead x = s.memRead x := rfl
@[simp] theorem memRead_setPcset (x : Byte) (v : Bool) (s : State) : (s.setPcset v).memRead x = s.memRead x := rfl
@[simp] theorem memRead_transfer (x : Byte) (v : Byte) (s : State) : (s.transfer v).memRead x = s.memRead x := rfl
@[simp] theorem memRead_emit (x : Byte) (e : DisplayEvent) (s : State) : (s.emit e).memRead x = s.memRead x := rfl
@[simp] theorem memRead_halt (x : Byte) (k : HaltReason) (i : HaltInfo) (s : State) : (s.halt k i).memRead x = s.memRead x := rfl
@[simp] theorem memRead_fetch (x : Byte) (s : State) : (s.fetch).memRead x = s.memRead x := rfl

theorem memRead_memWrite_same (a v : Byte) {s : State} (h : Memory.wf s.mem = true) : (s.memWrite a v).memRead a = v :=
  memLookup_memStore_same v h

theorem memRead_memWrite_other {a x : Byte} (v : Byte) (s : State) (h : x ≠ a) :
    (s.memWrite a v).memRead x = s.memRead x :=
  memLookup_memStore_other s.mem v (fun e => h (BitVec.eq_of_toNat_eq e))

theorem memRead_memWrite (a x v : Byte) {s : State} (h : Memory.wf s.mem = true) :
    (s.memWrite a v).memRead x = if x = a then v else s.memRead x := by
  by_cases hx : x = a
  · simp [hx, memRead_memWrite_same a v h]
  · simp [hx, memRead_memWrite_other v s hx]

/-! ### The stack engine (43_stack.md) -/

@[simp] theorem sp_push (v : Byte) (s : State) : (s.push v).sp = s.sp - 1 := rfl

@[simp] theorem reg_push_other {r : Reg} (v : Byte) (s : State) (h : r ≠ .r7) : (s.push v).reg r = s.reg r :=
  regsRead_regsWrite_other s.regs (s.sp - 1) h

theorem wf_push (v : Byte) {s : State} (h : Memory.wf s.mem = true) : Memory.wf (s.push v).mem = true :=
  Memory.wf_memStore _ _ h

theorem memRead_push (x v : Byte) {s : State} (h : Memory.wf s.mem = true) :
    (s.push v).memRead x = if x = s.sp - 1 then v else s.memRead x :=
  memRead_memWrite (s := s.setReg .r7 (s.sp - 1)) (s.sp - 1) x v h

theorem memRead_push_other {x : Byte} (v : Byte) (s : State) (h : x ≠ s.sp - 1) :
    (s.push v).memRead x = s.memRead x :=
  memRead_memWrite_other v (s.setReg .r7 (s.sp - 1)) h

@[simp] theorem pop_value (s : State) : s.pop.1 = s.memRead s.sp := rfl

@[simp] theorem sp_popState (s : State) : s.pop.2.sp = s.sp + 1 := rfl

@[simp] theorem memRead_popState (x : Byte) (s : State) : s.pop.2.memRead x = s.memRead x := rfl

@[simp] theorem memRead_popInto (x : Byte) (r : Reg) (s : State) : (s.popInto r).memRead x = s.memRead x := rfl

theorem reg_popInto (q r : Reg) (s : State) :
    (s.popInto q).reg r = if r = q then s.memRead s.sp else if r = .r7 then s.sp + 1 else s.reg r := by
  simp only [State.popInto, reg_setReg, pop_value]
  split
  · rfl
  · exact reg_setReg .r7 r (s.sp + 1) s

/-! ### The PC advance (30_encoding.md R76) -/

theorem advance_of_running {s : State} (h : s.halted = false) (p : s.pcset = false) :
    s.advance = s.setPc (s.pc + BitVec.ofNat 8 (instrLength s.ir)) := by simp [State.advance, h, p]

theorem advance_of_halted {s : State} (h : s.halted = true) : s.advance = s := by simp [State.advance, h]

theorem advance_of_pcset {s : State} (p : s.pcset = true) : s.advance = s := by simp [State.advance, p]

/-- The advance changes PC at most. -/
theorem advance_cases (s : State) :
    (s.advance = s ∧ (s.halted = true ∨ s.pcset = true)) ∨
    (s.advance = s.setPc (s.pc + BitVec.ofNat 8 (instrLength s.ir)) ∧ s.halted = false ∧ s.pcset = false) := by
  cases hh : s.halted <;> cases hp : s.pcset <;> simp [State.advance, hh, hp]

/-! ### The arbiter (60_exceptions.md R243, R244) -/

/-- The arbiter finds the line whose bit is 1 and below which none is. -/
theorem lowestLine_eq {p : Byte} {i : Fin 8} (hi : p.getLsbD i.val = true)
    (hlow : ∀ j : Fin 8, j < i → p.getLsbD j.val = false) : lowestLine p = some i := by
  unfold lowestLine
  fin_cases i <;> simp_all [List.find?, Fin.forall_fin_succ]

/-- The line the arbiter finds has its bit 1, and no lower line has. -/
theorem lowestLine_spec {p : Byte} {i : Fin 8} (h : lowestLine p = some i) :
    p.getLsbD i.val = true ∧ ∀ j : Fin 8, j < i → p.getLsbD j.val = false := by
  simp only [lowestLine, List.find?] at h
  revert h
  repeat' split
  all_goals intro h; simp only [Option.some.injEq, reduceCtorEq] at h
  all_goals subst h; simp_all [Fin.forall_fin_succ]

theorem lowestLine_zero : lowestLine 0 = none := by decide

/-- The arbiter finds no line only where every bit is 0. -/
theorem eq_zero_of_lowestLine_none {p : Byte} (h : lowestLine p = none) : p = 0 := by
  simp only [lowestLine, List.find?_eq_none, List.mem_cons, List.not_mem_nil, or_false, forall_eq_or_imp, forall_eq,
    Bool.not_eq_true] at h
  obtain ⟨h0, h1, h2, h3, h4, h5, h6, h7⟩ := h
  apply BitVec.eq_of_getLsbD_eq
  intro k hk
  match k, hk with
  | 0, _ => simpa using h0
  | 1, _ => simpa using h1
  | 2, _ => simpa using h2
  | 3, _ => simpa using h3
  | 4, _ => simpa using h4
  | 5, _ => simpa using h5
  | 6, _ => simpa using h6
  | 7, _ => simpa using h7

end Sys2Proof.Machine
end

