-- ==== Sys2Proof/Laws/Operands.lean ====
section
/-! SUPPORT. Operand bytes: which register a byte names, and what the one- and two-register forms answer. -/

namespace Sys2Proof.Machine

@[simp] theorem regOf?_byte (r : Reg) : regOf? r.byte = some r := by cases r <;> rfl

theorem byte_of_regOf? {k : Byte} {r : Reg} (h : regOf? k = some r) : k = r.byte := by
  revert h
  unfold regOf?
  split
  all_goals intro h; simp only [Option.some.injEq, reduceCtorEq] at h
  all_goals subst h; apply BitVec.eq_of_toNat_eq; assumption

theorem regOf?_eq_none_iff (k : Byte) : regOf? k = none ↔ 7 < k.toNat := by
  unfold regOf?
  split
  all_goals simp_all
  omega

theorem regByteOk_iff (k : Byte) : regByteOk k = true ↔ ∃ r, regOf? k = some r := by
  cases h : regOf? k with
  | none => simpa [regByteOk] using (regOf?_eq_none_iff k).mp h
  | some r =>
    have : ¬ 7 < k.toNat := fun hk => by simp [(regOf?_eq_none_iff k).mpr hk] at h
    simpa [regByteOk] using this

@[simp] theorem regByteOk_byte (r : Reg) : regByteOk r.byte = true := by cases r <;> rfl

@[simp] theorem withReg_byte (r : Reg) (s : State) (f : Reg → State) : withReg r.byte s f = .next (f r) := by
  simp [withReg]

@[simp] theorem withRegs_byte (ra rb : Reg) (s : State) (f : Reg → Reg → State) :
    withRegs ra.byte rb.byte s f = .next (f ra rb) := by
  simp [withRegs]

theorem withReg_bad {k : Byte} (h : 7 < k.toNat) (s : State) (f : Reg → State) :
    withReg k s f = .next s.badRegister := by
  simp [withReg, (regOf?_eq_none_iff k).mpr h]

theorem withRegs_bad {a b : Byte} (h : 7 < a.toNat ∨ 7 < b.toNat) (s : State) (f : Reg → Reg → State) :
    withRegs a b s f = .next s.badRegister := by
  unfold withRegs
  rcases h with h | h
  · simp [(regOf?_eq_none_iff a).mpr h]
  · cases ha : regOf? a <;> simp [(regOf?_eq_none_iff b).mpr h]

/-- A one-register form answers its effect on the register the byte names, or the BAD_REGISTER halt. -/
theorem withReg_cases {k : Byte} {s t : State} {f : Reg → State} (h : withReg k s f = .next t) :
    (∃ r : Reg, k = r.byte ∧ t = f r) ∨ (7 < k.toNat ∧ t = s.badRegister) := by
  unfold withReg at h
  split at h
  · rename_i r e
    exact .inl ⟨r, byte_of_regOf? e, (Host.Outcome.next.inj h).symm⟩
  · rename_i e
    exact .inr ⟨(regOf?_eq_none_iff k).mp e, (Host.Outcome.next.inj h).symm⟩

/-- A two-register form answers its effect on the registers the bytes name, or the BAD_REGISTER halt. -/
theorem withRegs_cases {a b : Byte} {s t : State} {f : Reg → Reg → State} (h : withRegs a b s f = .next t) :
    (∃ ra rb : Reg, a = ra.byte ∧ b = rb.byte ∧ t = f ra rb) ∨
    ((7 < a.toNat ∨ 7 < b.toNat) ∧ t = s.badRegister) := by
  cases ha : regOf? a with
  | none =>
    have hk := (regOf?_eq_none_iff a).mp ha
    rw [withRegs_bad (.inl hk)] at h
    exact .inr ⟨.inl hk, (Host.Outcome.next.inj h).symm⟩
  | some ra =>
    cases hb : regOf? b with
    | none =>
      have hk := (regOf?_eq_none_iff b).mp hb
      rw [withRegs_bad (.inr hk)] at h
      exact .inr ⟨.inr hk, (Host.Outcome.next.inj h).symm⟩
    | some rb =>
      rw [byte_of_regOf? ha, byte_of_regOf? hb, withRegs_byte] at h
      exact .inl ⟨ra, rb, byte_of_regOf? ha, byte_of_regOf? hb, (Host.Outcome.next.inj h).symm⟩

end Sys2Proof.Machine
end

