-- ==== Sys2Proof/Laws/Exec.lean ====
section
/-! SUPPORT. What one instruction can do, said once: `Effect s i t` lists the shapes of next state that `exec i s` can answer,
with what decides between them. Frame and invariant proofs take it apart instead of unfolding the meanings. -/

namespace Sys2Proof.Machine

theorem regByteOk_eq_false_iff (k : Byte) : regByteOk k = false ↔ 7 < k.toNat := by
  simp [regByteOk]

theorem regByteOk_and_eq_false {a b : Byte} (bad : 7 < a.toNat ∨ 7 < b.toNat) :
    (regByteOk a && regByteOk b) = false := by
  rw [Bool.and_eq_false_iff, regByteOk_eq_false_iff, regByteOk_eq_false_iff]
  exact bad

/-- The shapes of an instruction's next state. -/
inductive Effect (s : State) : Instr → State → Prop
  /-- a register operand byte above 7 -/
  | badRegister {i : Instr} (bad : i.wellFormed = false) : Effect s i s.badRegister
  /-- one register written: the ALU instructions but CMP and CMPI, LD and LDI -/
  | writeReg {i : Instr} (r : Reg) (v : Byte) (ok : i.wellFormed = true) (dest : writesReg i r = true)
      (runs : haltsWith i s = .none)
      (op : i.op ∈ [.add, .sub, .mul, .div, .mod, .addi, .subi, .muli, .divi, .modi, .inc, .dec, .and, .or, .xor, .not,
        .ld, .ldi]) : Effect s i (s.setReg r v)
  /-- a comparison -/
  | compare {i : Instr} (x y : Byte) (ok : i.wellFormed = true) (runs : haltsWith i s = .none)
      (op : i.op ∈ [.cmp, .cmpi]) : Effect s i (s.setFl (compareFlags x y))
  /-- ST -/
  | store {i : Instr} (a v : Byte) (ok : i.wellFormed = true) (runs : haltsWith i s = .none) (op : i.op = .st)
      (place : storesAt i s = some a) : Effect s i (s.memWrite a v)
  /-- an event sent -/
  | send {i : Instr} (e : DisplayEvent) (ok : i.wellFormed = true) (runs : haltsWith i s = .none)
      (op : i.op ∈ [.pra, .prn, .drw]) : Effect s i (s.emit e)
  /-- a zero divisor -/
  | divideByZero {i : Instr} (ok : i.wellFormed = true) (zero : haltsWith i s = .divZero)
      (op : i.op ∈ [.div, .mod, .divi, .modi]) : Effect s i (s.halt .divZero (haltRecord i s))
  /-- HLT -/
  | stop : Effect s .hlt (s.halt .hlt (.hlt s.pc s.ir))
  /-- a conditional jump whose condition does not hold -/
  | passOver {i : Instr} (ok : i.wellFormed = true) (runs : haltsWith i s = .none)
      (op : i.op ∈ [.jeq, .jne, .jgt, .jlt]) (untaken : transfersControl i s.fl = false) : Effect s i s
  /-- a jump -/
  | jump {i : Instr} (target : Byte) (ok : i.wellFormed = true) (runs : haltsWith i s = .none)
      (op : i.op ∈ [.jmp, .jmpi, .jeq, .jne, .jgt, .jlt]) (taken : transfersControl i s.fl = true) :
      Effect s i (s.transfer target)
  /-- a call -/
  | callTo {i : Instr} (target : Byte) (ok : i.wellFormed = true) (runs : haltsWith i s = .none)
      (op : i.op ∈ [.call, .calli]) (place : storesAt i s = some s.pushAddress) : Effect s i (s.call target)
  /-- PUSH -/
  | pushReg {i : Instr} (v : Byte) (ok : i.wellFormed = true) (runs : haltsWith i s = .none) (op : i.op = .push)
      (place : storesAt i s = some s.pushAddress) : Effect s i (s.push v)
  /-- POP -/
  | popReg {i : Instr} (r : Reg) (ok : i.wellFormed = true) (runs : haltsWith i s = .none) (op : i.op = .pop)
      (dest : writesReg i r = true) : Effect s i (s.popInto r)
  /-- RET -/
  | returnFrom : Effect s .ret (s.pop.2.transfer s.pop.1)
  /-- IRET -/
  | interruptReturn : Effect s .iret s.interruptReturn

/-- `exec` answers only next states of these shapes. -/
theorem effect_of_exec {i : Instr} {s t : State} (h : exec i s = .next t) : Effect s i t := by
  cases i with
  | hlt =>
    cases h
    exact .stop
  | ret =>
    cases h
    exact .returnFrom
  | iret =>
    cases h
    exact .interruptReturn
  | pra r =>
    rcases withReg_cases h with ⟨rr, rfl, rfl⟩ | ⟨bad, rfl⟩
    · exact .send _ (by simp [Instr.wellFormed]) (by simp [haltsWith, dividesByZero, Instr.wellFormed]) (by simp [Instr.op])
    · exact .badRegister ((regByteOk_eq_false_iff _).mpr bad)
  | prn r =>
    rcases withReg_cases h with ⟨rr, rfl, rfl⟩ | ⟨bad, rfl⟩
    · exact .send _ (by simp [Instr.wellFormed]) (by simp [haltsWith, dividesByZero, Instr.wellFormed]) (by simp [Instr.op])
    · exact .badRegister ((regByteOk_eq_false_iff _).mpr bad)
  | call r =>
    rcases withReg_cases h with ⟨rr, rfl, rfl⟩ | ⟨bad, rfl⟩
    · exact .callTo _ (by simp [Instr.wellFormed]) (by simp [haltsWith, dividesByZero, Instr.wellFormed]) (by simp [Instr.op]) (by simp [storesAt, Instr.wellFormed])
    · exact .badRegister ((regByteOk_eq_false_iff _).mpr bad)
  | calli imm =>
    cases h
    exact .callTo _ rfl rfl (by simp [Instr.op]) rfl
  | pop r =>
    rcases withReg_cases h with ⟨rr, rfl, rfl⟩ | ⟨bad, rfl⟩
    · exact .popReg _ (by simp [Instr.wellFormed]) (by simp [haltsWith, dividesByZero, Instr.wellFormed]) rfl (by simp [writesReg])
    · exact .badRegister ((regByteOk_eq_false_iff _).mpr bad)
  | push r =>
    rcases withReg_cases h with ⟨rr, rfl, rfl⟩ | ⟨bad, rfl⟩
    · exact .pushReg _ (by simp [Instr.wellFormed]) (by simp [haltsWith, dividesByZero, Instr.wellFormed]) rfl (by simp [storesAt, Instr.wellFormed])
    · exact .badRegister ((regByteOk_eq_false_iff _).mpr bad)
  | jmp r =>
    rcases withReg_cases h with ⟨rr, rfl, rfl⟩ | ⟨bad, rfl⟩
    · exact .jump _ (by simp [Instr.wellFormed]) (by simp [haltsWith, dividesByZero, Instr.wellFormed]) (by simp [Instr.op]) rfl
    · exact .badRegister ((regByteOk_eq_false_iff _).mpr bad)
  | jeq r =>
    rcases withReg_cases h with ⟨rr, rfl, rfl⟩ | ⟨bad, rfl⟩
    · cases taken : flagE s.fl
      · exact .passOver (by simp [Instr.wellFormed]) (by simp [haltsWith, dividesByZero, Instr.wellFormed]) (by simp [Instr.op]) taken
      · exact .jump _ (by simp [Instr.wellFormed]) (by simp [haltsWith, dividesByZero, Instr.wellFormed]) (by simp [Instr.op]) taken
    · exact .badRegister ((regByteOk_eq_false_iff _).mpr bad)
  | jne r =>
    rcases withReg_cases h with ⟨rr, rfl, rfl⟩ | ⟨bad, rfl⟩
    · cases taken : (!flagE s.fl)
      · exact .passOver (by simp [Instr.wellFormed]) (by simp [haltsWith, dividesByZero, Instr.wellFormed]) (by simp [Instr.op]) taken
      · exact .jump _ (by simp [Instr.wellFormed]) (by simp [haltsWith, dividesByZero, Instr.wellFormed]) (by simp [Instr.op]) taken
    · exact .badRegister ((regByteOk_eq_false_iff _).mpr bad)
  | jlt r =>
    rcases withReg_cases h with ⟨rr, rfl, rfl⟩ | ⟨bad, rfl⟩
    · cases taken : flagL s.fl
      · exact .passOver (by simp [Instr.wellFormed]) (by simp [haltsWith, dividesByZero, Instr.wellFormed]) (by simp [Instr.op]) taken
      · exact .jump _ (by simp [Instr.wellFormed]) (by simp [haltsWith, dividesByZero, Instr.wellFormed]) (by simp [Instr.op]) taken
    · exact .badRegister ((regByteOk_eq_false_iff _).mpr bad)
  | jgt r =>
    rcases withReg_cases h with ⟨rr, rfl, rfl⟩ | ⟨bad, rfl⟩
    · cases taken : flagG s.fl
      · exact .passOver (by simp [Instr.wellFormed]) (by simp [haltsWith, dividesByZero, Instr.wellFormed]) (by simp [Instr.op]) taken
      · exact .jump _ (by simp [Instr.wellFormed]) (by simp [haltsWith, dividesByZero, Instr.wellFormed]) (by simp [Instr.op]) taken
    · exact .badRegister ((regByteOk_eq_false_iff _).mpr bad)
  | jmpi imm =>
    cases h
    exact .jump _ rfl rfl (by simp [Instr.op]) rfl
  | not r =>
    rcases withReg_cases h with ⟨rr, rfl, rfl⟩ | ⟨bad, rfl⟩
    · exact .writeReg _ _ (by simp [Instr.wellFormed]) (by simp [writesReg]) (by simp [haltsWith, dividesByZero, Instr.wellFormed]) (by simp [Instr.op])
    · exact .badRegister ((regByteOk_eq_false_iff _).mpr bad)
  | inc r =>
    rcases withReg_cases h with ⟨rr, rfl, rfl⟩ | ⟨bad, rfl⟩
    · exact .writeReg _ _ (by simp [Instr.wellFormed]) (by simp [writesReg]) (by simp [haltsWith, dividesByZero, Instr.wellFormed]) (by simp [Instr.op])
    · exact .badRegister ((regByteOk_eq_false_iff _).mpr bad)
  | dec r =>
    rcases withReg_cases h with ⟨rr, rfl, rfl⟩ | ⟨bad, rfl⟩
    · exact .writeReg _ _ (by simp [Instr.wellFormed]) (by simp [writesReg]) (by simp [haltsWith, dividesByZero, Instr.wellFormed]) (by simp [Instr.op])
    · exact .badRegister ((regByteOk_eq_false_iff _).mpr bad)
  | cmpi r imm =>
    rcases withReg_cases h with ⟨rr, rfl, rfl⟩ | ⟨bad, rfl⟩
    · exact .compare _ _ (by simp [Instr.wellFormed]) (by simp [haltsWith, dividesByZero, Instr.wellFormed]) (by simp [Instr.op])
    · exact .badRegister ((regByteOk_eq_false_iff _).mpr bad)
  | addi r imm =>
    rcases withReg_cases h with ⟨rr, rfl, rfl⟩ | ⟨bad, rfl⟩
    · exact .writeReg _ _ (by simp [Instr.wellFormed]) (by simp [writesReg]) (by simp [haltsWith, dividesByZero, Instr.wellFormed]) (by simp [Instr.op])
    · exact .badRegister ((regByteOk_eq_false_iff _).mpr bad)
  | subi r imm =>
    rcases withReg_cases h with ⟨rr, rfl, rfl⟩ | ⟨bad, rfl⟩
    · exact .writeReg _ _ (by simp [Instr.wellFormed]) (by simp [writesReg]) (by simp [haltsWith, dividesByZero, Instr.wellFormed]) (by simp [Instr.op])
    · exact .badRegister ((regByteOk_eq_false_iff _).mpr bad)
  | muli r imm =>
    rcases withReg_cases h with ⟨rr, rfl, rfl⟩ | ⟨bad, rfl⟩
    · exact .writeReg _ _ (by simp [Instr.wellFormed]) (by simp [writesReg]) (by simp [haltsWith, dividesByZero, Instr.wellFormed]) (by simp [Instr.op])
    · exact .badRegister ((regByteOk_eq_false_iff _).mpr bad)
  | divi r imm =>
    rcases withReg_cases h with ⟨rr, rfl, rfl⟩ | ⟨bad, rfl⟩
    · by_cases zero : imm = 0
      · subst zero
        have hz : haltsWith (.divi rr.byte 0) s = .divZero := by
          simp [haltsWith, dividesByZero, Instr.wellFormed]
        have hr : haltRecord (.divi rr.byte 0) s = .divImmediate s.pc s.ir s.opa 0 (s.reg rr) := by
          unfold haltRecord
          rw [hz]
          simp
        rw [if_pos rfl, ← hr]
        exact .divideByZero (by simp [Instr.wellFormed]) hz (by simp [Instr.op])
      · rw [if_neg zero]
        exact .writeReg _ _ (by simp [Instr.wellFormed]) (by simp [writesReg])
          (by simpa [haltsWith, dividesByZero, Instr.wellFormed] using zero) (by simp [Instr.op])
    · exact .badRegister ((regByteOk_eq_false_iff _).mpr bad)
  | modi r imm =>
    rcases withReg_cases h with ⟨rr, rfl, rfl⟩ | ⟨bad, rfl⟩
    · by_cases zero : imm = 0
      · subst zero
        have hz : haltsWith (.modi rr.byte 0) s = .divZero := by
          simp [haltsWith, dividesByZero, Instr.wellFormed]
        have hr : haltRecord (.modi rr.byte 0) s = .divImmediate s.pc s.ir s.opa 0 (s.reg rr) := by
          unfold haltRecord
          rw [hz]
          simp
        rw [if_pos rfl, ← hr]
        exact .divideByZero (by simp [Instr.wellFormed]) hz (by simp [Instr.op])
      · rw [if_neg zero]
        exact .writeReg _ _ (by simp [Instr.wellFormed]) (by simp [writesReg])
          (by simpa [haltsWith, dividesByZero, Instr.wellFormed] using zero) (by simp [Instr.op])
    · exact .badRegister ((regByteOk_eq_false_iff _).mpr bad)
  | drw a b =>
    rcases withRegs_cases h with ⟨ra, rb, rfl, rfl, rfl⟩ | ⟨bad, rfl⟩
    · exact .send _ (by simp [Instr.wellFormed]) (by simp [haltsWith, dividesByZero, Instr.wellFormed]) (by simp [Instr.op])
    · exact .badRegister (regByteOk_and_eq_false bad)
  | ld a b =>
    rcases withRegs_cases h with ⟨ra, rb, rfl, rfl, rfl⟩ | ⟨bad, rfl⟩
    · exact .writeReg _ _ (by simp [Instr.wellFormed]) (by simp [writesReg]) (by simp [haltsWith, dividesByZero, Instr.wellFormed]) (by simp [Instr.op])
    · exact .badRegister (regByteOk_and_eq_false bad)
  | ldi r imm =>
    rcases withReg_cases h with ⟨rr, rfl, rfl⟩ | ⟨bad, rfl⟩
    · exact .writeReg _ _ (by simp [Instr.wellFormed]) (by simp [writesReg]) (by simp [haltsWith, dividesByZero, Instr.wellFormed]) (by simp [Instr.op])
    · exact .badRegister ((regByteOk_eq_false_iff _).mpr bad)
  | st a b =>
    rcases withRegs_cases h with ⟨ra, rb, rfl, rfl, rfl⟩ | ⟨bad, rfl⟩
    · exact .store _ _ (by simp [Instr.wellFormed]) (by simp [haltsWith, dividesByZero, Instr.wellFormed]) rfl (by simp [storesAt, Instr.wellFormed])
    · exact .badRegister (regByteOk_and_eq_false bad)
  | cmp a b =>
    rcases withRegs_cases h with ⟨ra, rb, rfl, rfl, rfl⟩ | ⟨bad, rfl⟩
    · exact .compare _ _ (by simp [Instr.wellFormed]) (by simp [haltsWith, dividesByZero, Instr.wellFormed]) (by simp [Instr.op])
    · exact .badRegister (regByteOk_and_eq_false bad)
  | add a b =>
    rcases withRegs_cases h with ⟨ra, rb, rfl, rfl, rfl⟩ | ⟨bad, rfl⟩
    · exact .writeReg _ _ (by simp [Instr.wellFormed]) (by simp [writesReg]) (by simp [haltsWith, dividesByZero, Instr.wellFormed]) (by simp [Instr.op])
    · exact .badRegister (regByteOk_and_eq_false bad)
  | sub a b =>
    rcases withRegs_cases h with ⟨ra, rb, rfl, rfl, rfl⟩ | ⟨bad, rfl⟩
    · exact .writeReg _ _ (by simp [Instr.wellFormed]) (by simp [writesReg]) (by simp [haltsWith, dividesByZero, Instr.wellFormed]) (by simp [Instr.op])
    · exact .badRegister (regByteOk_and_eq_false bad)
  | mul a b =>
    rcases withRegs_cases h with ⟨ra, rb, rfl, rfl, rfl⟩ | ⟨bad, rfl⟩
    · exact .writeReg _ _ (by simp [Instr.wellFormed]) (by simp [writesReg]) (by simp [haltsWith, dividesByZero, Instr.wellFormed]) (by simp [Instr.op])
    · exact .badRegister (regByteOk_and_eq_false bad)
  | div a b =>
    rcases withRegs_cases h with ⟨ra, rb, rfl, rfl, rfl⟩ | ⟨bad, rfl⟩
    · by_cases zero : s.reg rb = 0
      · have hz : haltsWith (.div ra.byte rb.byte) s = .divZero := by
          simp [haltsWith, dividesByZero, Instr.wellFormed, zero]
        have hr : haltRecord (.div ra.byte rb.byte) s =
            .divRegister s.pc s.ir s.opa s.opb (s.reg ra) (s.reg rb) := by simp [haltRecord, hz]
        rw [if_pos zero, ← hr]
        exact .divideByZero (by simp [Instr.wellFormed]) hz (by simp [Instr.op])
      · rw [if_neg zero]
        exact .writeReg _ _ (by simp [Instr.wellFormed]) (by simp [writesReg])
          (by simpa [haltsWith, dividesByZero, Instr.wellFormed] using zero) (by simp [Instr.op])
    · exact .badRegister (regByteOk_and_eq_false bad)
  | mod a b =>
    rcases withRegs_cases h with ⟨ra, rb, rfl, rfl, rfl⟩ | ⟨bad, rfl⟩
    · by_cases zero : s.reg rb = 0
      · have hz : haltsWith (.mod ra.byte rb.byte) s = .divZero := by
          simp [haltsWith, dividesByZero, Instr.wellFormed, zero]
        have hr : haltRecord (.mod ra.byte rb.byte) s =
            .divRegister s.pc s.ir s.opa s.opb (s.reg ra) (s.reg rb) := by simp [haltRecord, hz]
        rw [if_pos zero, ← hr]
        exact .divideByZero (by simp [Instr.wellFormed]) hz (by simp [Instr.op])
      · rw [if_neg zero]
        exact .writeReg _ _ (by simp [Instr.wellFormed]) (by simp [writesReg])
          (by simpa [haltsWith, dividesByZero, Instr.wellFormed] using zero) (by simp [Instr.op])
    · exact .badRegister (regByteOk_and_eq_false bad)
  | or a b =>
    rcases withRegs_cases h with ⟨ra, rb, rfl, rfl, rfl⟩ | ⟨bad, rfl⟩
    · exact .writeReg _ _ (by simp [Instr.wellFormed]) (by simp [writesReg]) (by simp [haltsWith, dividesByZero, Instr.wellFormed]) (by simp [Instr.op])
    · exact .badRegister (regByteOk_and_eq_false bad)
  | xor a b =>
    rcases withRegs_cases h with ⟨ra, rb, rfl, rfl, rfl⟩ | ⟨bad, rfl⟩
    · exact .writeReg _ _ (by simp [Instr.wellFormed]) (by simp [writesReg]) (by simp [haltsWith, dividesByZero, Instr.wellFormed]) (by simp [Instr.op])
    · exact .badRegister (regByteOk_and_eq_false bad)
  | and a b =>
    rcases withRegs_cases h with ⟨ra, rb, rfl, rfl, rfl⟩ | ⟨bad, rfl⟩
    · exact .writeReg _ _ (by simp [Instr.wellFormed]) (by simp [writesReg]) (by simp [haltsWith, dividesByZero, Instr.wellFormed]) (by simp [Instr.op])
    · exact .badRegister (regByteOk_and_eq_false bad)

end Sys2Proof.Machine
end

