-- ==== Sys2Proof/Laws/Interrupts.lean ====
section
/-! SUPPORT. Interrupt entry and return: every field after an entry (60_exceptions.md R249), and an IRET as one update
(44_system.md R220). -/

namespace Sys2Proof.Machine

/-! ### Entry -/

@[simp] theorem interruptEntry_fl (i : Fin 8) (s : State) : (s.interruptEntry i).fl = s.fl := rfl
@[simp] theorem interruptEntry_ir (i : Fin 8) (s : State) : (s.interruptEntry i).ir = s.ir := rfl
@[simp] theorem interruptEntry_opa (i : Fin 8) (s : State) : (s.interruptEntry i).opa = s.opa := rfl
@[simp] theorem interruptEntry_opb (i : Fin 8) (s : State) : (s.interruptEntry i).opb = s.opb := rfl
@[simp] theorem interruptEntry_pcset (i : Fin 8) (s : State) : (s.interruptEntry i).pcset = s.pcset := rfl
@[simp] theorem interruptEntry_halted (i : Fin 8) (s : State) : (s.interruptEntry i).halted = s.halted := rfl
@[simp] theorem interruptEntry_haltReason (i : Fin 8) (s : State) : (s.interruptEntry i).haltReason = s.haltReason := rfl
@[simp] theorem interruptEntry_haltInfo (i : Fin 8) (s : State) : (s.interruptEntry i).haltInfo = s.haltInfo := rfl
@[simp] theorem interruptEntry_out (i : Fin 8) (s : State) : (s.interruptEntry i).out = s.out := rfl
@[simp] theorem interruptEntry_cfg (i : Fin 8) (s : State) : (s.interruptEntry i).cfg = s.cfg := rfl

@[simp] theorem interruptEntry_ie (i : Fin 8) (s : State) : (s.interruptEntry i).ie = false := rfl

/-- The state in which entry starts to save: IE and the served line's IS bit cleared (60_exceptions.md R245). -/
def entryCleared (i : Fin 8) (s : State) : State := (s.setIe false).setIs (s.is &&& ~~~ lineBit i)

@[simp] theorem entryCleared_mem (i : Fin 8) (s : State) : (entryCleared i s).mem = s.mem := rfl

@[simp] theorem memRead_entryCleared (x : Byte) (i : Fin 8) (s : State) :
    (entryCleared i s).memRead x = s.memRead x := rfl

theorem reg_entryCleared (r : Reg) (i : Fin 8) (s : State) :
    (entryCleared i s).reg r = if r = s.cfg.isIdx then s.is &&& ~~~ lineBit i else s.reg r :=
  reg_setReg s.cfg.isIdx r _ (s.setIe false)

theorem sp_entryCleared (i : Fin 8) {s : State} (h : s.cfg.isIdx ≠ .r7) : (entryCleared i s).sp = s.sp := by
  have := reg_entryCleared .r7 i s
  rwa [if_neg (fun e => h e.symm)] at this

/-- The nine pushes, written out in their order (60_exceptions.md R246). -/
def entryPushed (c : State) : State :=
  (((((((((c.push c.pc).push c.fl).push (c.reg .r0)).push (c.reg .r1)).push (c.reg .r2)).push (c.reg .r3)).push
    (c.reg .r4)).push (c.reg .r5)).push (c.reg .r6))

theorem interruptEntry_eq (i : Fin 8) (s : State) :
    s.interruptEntry i =
      (entryPushed (entryCleared i s)).setPc
        ((entryPushed (entryCleared i s)).memRead (s.cfg.vtBase + BitVec.ofNat 8 i.val)) := by
  have h : ∀ {r : Reg} (v : Byte) (c : State), r ≠ .r7 → (c.push v).reg r = c.reg r :=
    fun v c h => reg_push_other v c h
  simp only [State.interruptEntry, savedRegs, List.foldl_cons, List.foldl_nil]
  simp only [entryPushed, entryCleared, push_cfg, h, ne_eq, reduceCtorEq, not_false_eq_true]
  rfl

theorem reg_entryPushed {r : Reg} (h : r ≠ .r7) (c : State) : (entryPushed c).reg r = c.reg r := by
  simp [entryPushed, h]

theorem sp_entryPushed (c : State) : (entryPushed c).sp = c.sp - 9 := by
  simp only [entryPushed, sp_push]
  bv_omega

theorem wf_entryPushed {c : State} (h : Memory.wf c.mem = true) : Memory.wf (entryPushed c).mem = true := by
  unfold entryPushed
  iterate 9 refine wf_push _ ?_
  exact h

/-- Every byte of memory after the nine pushes. -/
theorem memRead_entryPushed (x : Byte) {c : State} (h : Memory.wf c.mem = true) :
    (entryPushed c).memRead x =
      if x = c.sp - 9 then c.reg .r6 else if x = c.sp - 8 then c.reg .r5 else if x = c.sp - 7 then c.reg .r4
      else if x = c.sp - 6 then c.reg .r3 else if x = c.sp - 5 then c.reg .r2 else if x = c.sp - 4 then c.reg .r1
      else if x = c.sp - 3 then c.reg .r0 else if x = c.sp - 2 then c.fl else if x = c.sp - 1 then c.pc
      else c.memRead x := by
  have h1 := wf_push c.pc h
  have h2 := wf_push c.fl h1
  have h3 := wf_push (c.reg .r0) h2
  have h4 := wf_push (c.reg .r1) h3
  have h5 := wf_push (c.reg .r2) h4
  have h6 := wf_push (c.reg .r3) h5
  have h7 := wf_push (c.reg .r4) h6
  have h8 := wf_push (c.reg .r5) h7
  unfold entryPushed
  rw [memRead_push x _ h8, memRead_push x _ h7, memRead_push x _ h6, memRead_push x _ h5, memRead_push x _ h4,
    memRead_push x _ h3, memRead_push x _ h2, memRead_push x _ h1, memRead_push x _ h]
  simp only [sp_push, show ∀ b : Byte, b - 1 - 1 = b - 2 by intro b; bv_omega,
    show ∀ b : Byte, b - 2 - 1 = b - 3 by intro b; bv_omega, show ∀ b : Byte, b - 3 - 1 = b - 4 by intro b; bv_omega,
    show ∀ b : Byte, b - 4 - 1 = b - 5 by intro b; bv_omega, show ∀ b : Byte, b - 5 - 1 = b - 6 by intro b; bv_omega,
    show ∀ b : Byte, b - 6 - 1 = b - 7 by intro b; bv_omega, show ∀ b : Byte, b - 7 - 1 = b - 8 by intro b; bv_omega,
    show ∀ b : Byte, b - 8 - 1 = b - 9 by intro b; bv_omega]

/-! ### Return -/

theorem sp_popInto {r : Reg} (h : r ≠ .r7) (s : State) : (s.popInto r).sp = s.sp + 1 := by
  have := reg_popInto r .r7 s
  simpa [State.sp, h.symm] using this

/-- IRET as one update: R6 at SP up to PC at SP + 8 (44_system.md R220). -/
theorem interruptReturn_eq (s : State) :
    s.interruptReturn =
      { s with
        regs :=
          { r6 := s.memRead s.sp, r5 := s.memRead (s.sp + 1), r4 := s.memRead (s.sp + 2), r3 := s.memRead (s.sp + 3)
            r2 := s.memRead (s.sp + 4), r1 := s.memRead (s.sp + 5), r0 := s.memRead (s.sp + 6), r7 := s.sp + 9 }
        fl := s.memRead (s.sp + 7)
        pc := s.memRead (s.sp + 8)
        ie := true
        pcset := true } := by
  simp only [State.interruptReturn, savedRegs, List.reverse_cons, List.reverse_nil, List.nil_append, List.cons_append,
    List.foldl_cons, List.foldl_nil]
  apply State.ext
  case regs =>
    apply regs_ext
    intro r
    show State.reg _ r = _
    simp only [reg_transfer, reg_setIe]
    cases r <;> simp [State.pop, reg_setReg, reg_popInto, State.sp, regsRead, BitVec.add_assoc]
  all_goals simp [sp_popInto, BitVec.add_assoc]

@[simp] theorem interruptReturn_pc (s : State) : s.interruptReturn.pc = s.memRead (s.sp + 8) := by
  rw [interruptReturn_eq]
@[simp] theorem interruptReturn_fl (s : State) : s.interruptReturn.fl = s.memRead (s.sp + 7) := by
  rw [interruptReturn_eq]
@[simp] theorem interruptReturn_ie (s : State) : s.interruptReturn.ie = true := by
  rw [interruptReturn_eq]
@[simp] theorem interruptReturn_ir (s : State) : s.interruptReturn.ir = s.ir := by
  rw [interruptReturn_eq]
@[simp] theorem interruptReturn_opa (s : State) : s.interruptReturn.opa = s.opa := by
  rw [interruptReturn_eq]
@[simp] theorem interruptReturn_opb (s : State) : s.interruptReturn.opb = s.opb := by
  rw [interruptReturn_eq]
@[simp] theorem interruptReturn_pcset (s : State) : s.interruptReturn.pcset = true := by
  rw [interruptReturn_eq]
@[simp] theorem interruptReturn_halted (s : State) : s.interruptReturn.halted = s.halted := by
  rw [interruptReturn_eq]
@[simp] theorem interruptReturn_haltReason (s : State) : s.interruptReturn.haltReason = s.haltReason := by
  rw [interruptReturn_eq]
@[simp] theorem interruptReturn_haltInfo (s : State) : s.interruptReturn.haltInfo = s.haltInfo := by
  rw [interruptReturn_eq]
@[simp] theorem interruptReturn_out (s : State) : s.interruptReturn.out = s.out := by
  rw [interruptReturn_eq]
@[simp] theorem interruptReturn_mem (s : State) : s.interruptReturn.mem = s.mem := by
  rw [interruptReturn_eq]
@[simp] theorem interruptReturn_cfg (s : State) : s.interruptReturn.cfg = s.cfg := by
  rw [interruptReturn_eq]
@[simp] theorem interruptReturn_sp (s : State) : s.interruptReturn.sp = s.sp + 9 := by
  rw [interruptReturn_eq]; rfl

end Sys2Proof.Machine
end

