-- ==== Sys2Proof/Laws/Step.lean ====
section
/-! SUPPORT. The tick, one lemma per case: halted, an interrupt taken, an instruction fetched; and that the dispatcher finds
the instruction whose bytes stand at PC. -/

namespace Sys2Proof.Machine

/-- The interrupt check depends on nothing that clearing PCSET changes. -/
@[simp] theorem lineToTake?_setPcset (v : Bool) (s : State) : (s.setPcset v).lineToTake? = s.lineToTake? := rfl

theorem lineToTake?_none_iff (s : State) : s.lineToTake? = none ↔ s.ie = false ∨ s.is &&& s.im = 0 := by
  unfold State.lineToTake?
  constructor
  · intro h
    split at h
    · exact .inr (eq_zero_of_lowestLine_none h)
    · rename_i hie
      exact .inl (by simpa using hie)
  · rintro (h | h)
    · simp [h]
    · rw [h, lowestLine_zero, ite_self]

theorem step_halted {s : State} (h : s.halted = true) : step s = .next s := by simp [step, State.tick, h]

theorem step_entry {s : State} {i : Fin 8} (h : s.halted = false) (hl : s.lineToTake? = some i) :
    step s = .next ((s.setPcset false).interruptEntry i) := by
  simp [step, State.tick, h, hl]

theorem step_fetch {s t : State} (h : s.halted = false) (hl : s.lineToTake? = none)
    (he : s.fetched.execute = .next t) : step s = .next t.advance := by
  have he' : (s.setPcset false).fetch.execute = .next t := he
  simp [step, State.tick, h, hl, he']

@[simp] theorem fetched_pc (s : State) : s.fetched.pc = s.pc := rfl
@[simp] theorem fetched_halted (s : State) : s.fetched.halted = s.halted := rfl
@[simp] theorem fetched_pcset (s : State) : s.fetched.pcset = false := rfl
@[simp] theorem fetched_ir (s : State) : s.fetched.ir = s.memRead s.pc := rfl
@[simp] theorem fetched_cfg (s : State) : s.fetched.cfg = s.cfg := rfl

theorem execute_some {s : State} {i : Instr} (h : dispatch s.cfg.opc s.ir s.opa s.opb = some i) :
    s.execute = exec i s := by
  simp [State.execute, h]

theorem execute_none {s : State} (h : dispatch s.cfg.opc s.ir s.opa s.opb = none) : s.execute = .next s := by
  simp [State.execute, h]

theorem dispatch_of_opOf? {m : OpcodeMap} {ir : Byte} {o : Op} (h : m.opOf? ir = some o) (opa opb : Byte) :
    dispatch m ir opa opb = some (o.instr opa opb) := by
  simp [dispatch, h]

end Sys2Proof.Machine
end

