-- ==== Sys2Proof/Tests/Slice0.lean ====
section
/-! SUPPORT. The model's own tests. `test_…`: expected results are those of spec/95_test_vectors.md and of the examples and
corner cases in the instruction rules, never the model's own answers. `witness_…`: for every obligation with hypotheses, states
and operands that meet them together. -/

namespace Sys2Proof.Tests

open Sys2Proof.Machine

/-! ### Helpers -/

/-- Bytes stored from an address on, wrapping. -/
def poke (a : Byte) (bytes : List Byte) (s : State) : State :=
  (bytes.foldl (fun (p : Byte × State) b => (p.1 + 1, p.2.memWrite p.1 b)) (a, s)).2

/-- The reset state as a jump to an address left it, PCSET still 1, with bytes there: the next tick must clear PCSET. -/
def startAt (pc : Byte) (bytes : List Byte) : State := State.reset.transfer pc |> poke pc bytes

/-- A register set. -/
def withR (r : Reg) (v : Byte) (s : State) : State := s.setReg r v

/-- A reading of the next state. -/
def reads {α : Type} (r : Result) (f : State → α) : Option α :=
  match r with
  | .next t => some (f t)
  | .fault _ => none
  | .refused _ => none

/-- The halt outputs of a state. -/
def haltOf (s : State) : Bool × HaltReason × HaltInfo := (s.halted, s.haltReason, s.haltInfo)

/-! ### WellFormed refuses a register byte above 7, in every form and at every position -/

theorem test_illformed_one_register :
    [Instr.pra 8, .prn 8, .call 8, .pop 8, .push 8, .jmp 8, .jeq 8, .jne 8, .jlt 8, .jgt 8, .not 8, .inc 8, .dec 255].all
      (fun i => !i.wellFormed) = true := by decide

theorem test_illformed_register_of_register_immediate :
    [Instr.cmpi 8 0, .addi 8 0, .subi 8 0, .muli 8 0, .divi 8 1, .modi 8 1, .ldi 255 0].all (fun i => !i.wellFormed) = true := by
  decide

theorem test_illformed_first_register :
    [Instr.drw 8 0, .ld 8 0, .st 8 0, .cmp 8 0, .add 8 0, .sub 8 0, .mul 8 0, .div 8 0, .mod 8 0, .or 8 0, .xor 8 0,
      .and 8 0].all (fun i => !i.wellFormed) = true := by decide

theorem test_illformed_second_register :
    [Instr.drw 0 8, .ld 0 8, .st 0 8, .cmp 0 8, .add 0 8, .sub 0 8, .mul 0 8, .div 0 8, .mod 0 8, .or 0 8, .xor 0 8,
      .and 0 8].all (fun i => !i.wellFormed) = true := by decide

/-- An immediate has no illegal value (R85), and R7 is legal. -/
theorem test_wellformed_at_the_bounds :
    [Instr.calli 255, .jmpi 255, .ldi 7 255, .cmpi 7 255, .ld 7 7, .not 7].all Instr.wellFormed = true := by decide

/-! ### Every constructor's word, from the encodings of R74 and R80, operands at the ends of their ranges -/

theorem test_decode_no_operand :
    decode [0b00000001] = .instr .hlt [] ∧ decode [0b00001001] = .instr .ret [] ∧
    decode [0b00001011] = .instr .iret [] := by decide

theorem test_decode_one_operand :
    decode [0b01000010, 0b00000001] = .instr (.pra 1) [] ∧ decode [0b01000011, 0b00000010] = .instr (.prn 2) [] ∧
    decode [0b01001000, 0b00000100] = .instr (.call 4) [] ∧ decode [0b01001001, 0b11111110] = .instr (.calli 254) [] ∧
    decode [0b01001100, 0b00000111] = .instr (.pop 7) [] ∧ decode [0b01001101, 0b00000110] = .instr (.push 6) [] ∧
    decode [0b01110000, 0b00000101] = .instr (.not 5) [] ∧ decode [0b01111000, 0b00000011] = .instr (.inc 3) [] ∧
    decode [0b01111001, 0b00000000] = .instr (.dec 0) [] := by decide

theorem test_decode_jumps :
    decode [0b01010000, 0b00000001] = .instr (.jmp 1) [] ∧ decode [0b01010001, 0b00000010] = .instr (.jeq 2) [] ∧
    decode [0b01010010, 0b00000011] = .instr (.jne 3) [] ∧ decode [0b01010011, 0b00000100] = .instr (.jlt 4) [] ∧
    decode [0b01010100, 0b00000101] = .instr (.jgt 5) [] ∧ decode [0b01011000, 0b10000001] = .instr (.jmpi 129) [] := by decide

theorem test_decode_register_immediate :
    decode [0b10000000, 0b00000001, 0b10000000] = .instr (.cmpi 1 128) [] ∧
    decode [0b10001000, 0b00000010, 0b00001010] = .instr (.addi 2 10) [] ∧
    decode [0b10001001, 0b00000011, 0b00000001] = .instr (.subi 3 1) [] ∧
    decode [0b10001010, 0b00000100, 0b11111111] = .instr (.muli 4 255) [] ∧
    decode [0b10001011, 0b00000101, 0b00000111] = .instr (.divi 5 7) [] ∧
    decode [0b10001100, 0b00000110, 0b00000000] = .instr (.modi 6 0) [] ∧
    decode [0b10011001, 0b00000111, 0b01000000] = .instr (.ldi 7 64) [] := by decide

theorem test_decode_two_registers :
    decode [0b10010000, 0b00000000, 0b00000001] = .instr (.drw 0 1) [] ∧
    decode [0b10011000, 0b00000010, 0b00000001] = .instr (.ld 2 1) [] ∧
    decode [0b10011010, 0b00000011, 0b00000100] = .instr (.st 3 4) [] ∧
    decode [0b10100000, 0b00000101, 0b00000110] = .instr (.cmp 5 6) [] ∧
    decode [0b10101000, 0b00000111, 0b00000000] = .instr (.add 7 0) [] ∧
    decode [0b10101001, 0b00000001, 0b00000011] = .instr (.sub 1 3) [] ∧
    decode [0b10101010, 0b00000010, 0b00000100] = .instr (.mul 2 4) [] ∧
    decode [0b10101011, 0b00000011, 0b00000101] = .instr (.div 3 5) [] ∧
    decode [0b10101100, 0b00000100, 0b00000110] = .instr (.mod 4 6) [] ∧
    decode [0b10110001, 0b00000101, 0b00000111] = .instr (.or 5 7) [] ∧
    decode [0b10110010, 0b00000110, 0b00000000] = .instr (.xor 6 0) [] ∧
    decode [0b10110011, 0b00000111, 0b00000001] = .instr (.and 7 1) [] := by decide

/-- The decoder takes what an instruction needs and leaves the rest; it names what it cannot read: an opcode byte of no
instruction (R82's 0x00 and 0x4A, and class 11), and bytes that end inside an instruction. -/
theorem test_decode_rejects_by_name :
    decode [0x99, 0, 8, 0x43] = .instr (.ldi 0 8) [0x43] ∧ decode [0x00] = .unassigned 0x00 ∧
    decode [0x4A, 0] = .unassigned 0x4A ∧ decode [0xC0, 0, 0, 0] = .unassigned 0xC0 ∧ decode [] = .truncated ∧
    decode [0x99, 0] = .truncated := by decide

/-- The table's numbering: byte 0 in the low bits. -/
theorem test_table_words :
    decodeTableWord 24 0x080099 = some (.ldi 0 8) ∧ decodeTableWord 8 0x01 = some .hlt ∧
    decodeTableWord 16 0x0743 = some (.prn 7) ∧ decodeTableWord 8 0x00 = none := by decide

/-- R82: how many opcode bytes of each class have an instruction under the default map. -/
theorem test_class_counts :
    (Op.all.filter fun o => operandCount (defaultOpc.byte o) = 0).length = 3 ∧
    (Op.all.filter fun o => operandCount (defaultOpc.byte o) = 1).length = 15 ∧
    (Op.all.filter fun o => operandCount (defaultOpc.byte o) = 2).length = 19 := by decide

/-! ### Assembly text (R87) and the loader (R285, program P1) -/

theorem test_assemble_examples :
    assemble "LDI R0,8".toList = some (.ldi 0 8) ∧ assemble "PRN R0".toList = some (.prn 0) ∧
    assemble "HLT".toList = some .hlt ∧ assemble "DIV R0 R1".toList = some (.div 0 1) ∧
    assemble "LDI R0,0xF8".toList = some (.ldi 0 0xF8) ∧ assemble "LD R2, R1".toList = some (.ld 2 1) := by decide

theorem test_assemble_rejects :
    assemble "LDI R8,8".toList = none ∧ assemble "LDI R0,256".toList = none ∧ assemble "NOP".toList = none ∧
    assemble "PRN 0".toList = none := by decide

theorem test_load_line :
    parseLine "10011001 # LDI R0,8".toList = .byte 0x99 ∧ parseLine "  00001000\t".toList = .byte 8 ∧
    parseLine " \t".toList = .blank ∧ parseLine "1001100".toList = .malformed ∧ parseLine "1001100 1".toList = .malformed ∧
    parseLine "10011002".toList = .malformed ∧ parseLine "100110011".toList = .malformed := by decide

/-- The end of P1, with a trailing comment, without it, and with a blank line. -/
theorem test_load_comment :
    loadText "01000011 # PRN R0\n00000000\n00000001 # HLT\n".toList = some [0x43, 0x00, 0x01] ∧
    loadText "01000011\n\n00000000\n00000001".toList = some [0x43, 0x00, 0x01] ∧
    loadText "01000011\nPRN\n".toList = none := by decide

/-- P1 as it lies in memory, the first byte at address 0. -/
theorem test_boot_image :
    (boot defaultConfig [0x99, 0x00, 0x08, 0x43, 0x00, 0x01]).bytesFrom 0 7 = [0x99, 0x00, 0x08, 0x43, 0x00, 0x01, 0x00] := by
  decide

/-! ### The tick (vectors F1 to F10) -/

theorem test_F1_F2_F3_unassigned :
    reads (step (startAt 0 [0x4A, 0x55])) (fun t => (t.pc, t.regs == State.reset.regs, t.fl, t.out)) = some (2, true, 0, []) ∧
    reads (step (startAt 0 [0xBF, 0x55, 0x66])) (fun t => (t.pc, t.opa, t.opb)) = some (3, 0x55, 0x66) ∧
    reads (step (startAt 0 [0xC0, 0x55, 0x66, 0x77])) (fun t => (t.pc, t.opa, t.opb)) = some (4, 0x55, 0x66) ∧
    reads (step (startAt 0 [0x3F])) State.pc = some 1 := by decide

theorem test_F4_fetch_wraps :
    reads (step (startAt 0xFE [0x99, 0x00, 0x07])) (fun t => (t.reg .r0, t.pc)) = some (7, 1) := by decide

theorem test_F6_bad_register :
    reads (step (startAt 0 [0x99, 0x08, 0x05] |> withR .r0 0x33)) (fun t => (haltOf t, t.pc, t.reg .r0)) =
      some ((true, .badRegister, .badRegister 0 0x99 [8, 5]), 0, 0x33) := by decide

theorem test_F10_store_over_own_operand :
    reads (step (startAt 0 [0x9A, 0x00, 0x01] |> withR .r0 2 |> withR .r1 7)) (fun t => (t.memRead 2, t.pc, t.opb)) =
      some (7, 3, 1) := by decide

/-- The host's placing: the very next step runs the word. -/
theorem test_withFetchWord :
    reads (step (State.reset.withFetchWord 24 0x080099)) (fun t => (t.reg .r0, t.pc)) = some (8, 3) := by decide

/-! ### Data movement (M1 to M8) -/

theorem test_ld :
    reads (step (startAt 0 [0x98, 2, 1] |> withR .r1 0x80 |> poke 0x80 [0x2A])) (fun t => (t.reg .r2, t.pc)) = some (0x2A, 3) ∧
    reads (step (startAt 0 [0x98, 1, 1] |> withR .r1 0x80 |> poke 0x80 [0x2A])) (State.reg · .r1) = some 0x2A := by decide

theorem test_ldi :
    reads (step (startAt 0 [0x99, 7, 0x40])) (fun t => (t.sp, t.pc)) = some (0x40, 3) ∧
    reads (step (startAt 0 [0x99, 6, 4])) State.is = some 4 := by decide

theorem test_st :
    reads (step (startAt 0 [0x9A, 0, 1] |> withR .r0 0xF9 |> withR .r1 0x30)) (fun t => (t.memRead 0xF9, t.pc)) =
      some (0x30, 3) := by decide

/-! ### The ALU (A1 to A46): destination and FL, which starts as 0x04 -/

/-- The result of an instruction on two values, R0 and R1, with FL = 0x04 before. -/
def alu (i : Instr) (x y : Byte) : Option (Byte × Byte) :=
  reads (exec i (State.reset.setFl 4 |> withR .r0 x |> withR .r1 y)) fun t => (t.reg .r0, t.fl)

/-- Whether it halts with DIV_ZERO and the destination as it was. -/
def divZeroHalt (i : Instr) (x y : Byte) : Option (HaltReason × Byte × Byte) :=
  reads (exec i (State.reset |> withR .r0 x |> withR .r1 y)) fun t => (t.haltReason, t.reg .r0, t.pc)

theorem test_add : alu (.add 0 1) 200 100 = some (44, 4) ∧ alu (.add 0 1) 255 1 = some (0, 4) := by decide
theorem test_sub : alu (.sub 0 1) 3 5 = some (254, 4) ∧ alu (.sub 0 0) 77 0 = some (0, 4) := by decide
theorem test_mul : alu (.mul 0 1) 255 255 = some (1, 4) ∧ alu (.mul 0 1) 15 17 = some (255, 4) := by decide
theorem test_div :
    alu (.div 0 1) 7 2 = some (3, 4) ∧ alu (.div 0 0) 9 0 = some (1, 4) ∧
    divZeroHalt (.div 0 1) 5 0 = some (.divZero, 5, 0) := by decide
theorem test_mod :
    alu (.mod 0 1) 17 5 = some (2, 4) ∧ alu (.mod 0 1) 3 7 = some (3, 4) ∧
    divZeroHalt (.mod 0 1) 4 0 = some (.divZero, 4, 0) := by decide
theorem test_addi : alu (.addi 0 10) 250 0 = some (4, 4) := by decide
theorem test_subi : alu (.subi 0 1) 0 0 = some (255, 4) := by decide
theorem test_muli : alu (.muli 0 2) 128 0 = some (0, 4) ∧ alu (.muli 0 12) 12 0 = some (144, 4) := by decide
theorem test_divi :
    alu (.divi 0 7) 100 0 = some (14, 4) ∧ divZeroHalt (.divi 0 0) 100 1 = some (.divZero, 100, 0) := by decide
theorem test_modi :
    alu (.modi 0 7) 100 0 = some (2, 4) ∧ divZeroHalt (.modi 0 0) 9 1 = some (.divZero, 9, 0) := by decide
theorem test_inc : alu (.inc 0) 255 0 = some (0, 4) := by decide
theorem test_dec : alu (.dec 0) 0 0 = some (255, 4) := by decide
theorem test_and : alu (.and 0 1) 0xCC 0xAA = some (0x88, 4) := by decide
theorem test_or : alu (.or 0 1) 0xCC 0xAA = some (0xEE, 4) := by decide
theorem test_xor : alu (.xor 0 1) 0xCC 0xAA = some (0x66, 4) := by decide
theorem test_not : alu (.not 0) 0xCC 0 = some (0x33, 4) ∧ alu (.not 0) 0 0 = some (255, 4) := by decide
theorem test_cmp :
    alu (.cmp 0 1) 5 5 = some (5, 1) ∧ alu (.cmp 0 1) 255 0 = some (255, 2) ∧ alu (.cmp 0 1) 0 255 = some (0, 4) := by decide
theorem test_cmpi :
    alu (.cmpi 0 0) 0 1 = some (0, 1) ∧ alu (.cmpi 0 0) 1 0 = some (1, 2) ∧ alu (.cmpi 0 255) 254 0 = some (254, 4) := by decide

/-- P5's halt: the whole record. -/
theorem test_P5_div_zero_record :
    reads (step (startAt 6 [0xAB, 0, 1] |> withR .r0 10)) (fun t => (haltOf t, t.pc)) =
      some ((true, .divZero, .divRegister 6 0xAB 0 1 10 0), 6) := by decide

/-! ### Control transfer (C1 to C19) -/

/-- PC after one tick at 0x10 with R2 = 0x30. -/
def pcAfter (bytes : List Byte) (fl : Byte) : Option Byte :=
  reads (step (startAt 0x10 bytes |> withR .r2 0x30 |> State.setFl fl)) State.pc

theorem test_jmp : pcAfter [0x50, 2] 0 = some 0x30 := by decide
theorem test_jmpi : pcAfter [0x58, 0x20] 0 = some 0x20 := by decide
theorem test_jeq : pcAfter [0x51, 2] 0xF9 = some 0x30 ∧ pcAfter [0x51, 2] 2 = some 0x12 := by decide
theorem test_jne : pcAfter [0x52, 2] 0 = some 0x30 ∧ pcAfter [0x52, 2] 1 = some 0x12 := by decide
theorem test_jgt : pcAfter [0x54, 2] 2 = some 0x30 ∧ pcAfter [0x54, 2] 4 = some 0x12 := by decide
theorem test_jlt : pcAfter [0x53, 2] 4 = some 0x30 ∧ pcAfter [0x53, 2] 2 = some 0x12 := by decide

/-- C19: the register byte is checked although the jump would not be taken. -/
theorem test_jeq_bad_register :
    reads (step (startAt 0x10 [0x51, 0x0A])) (fun t => (t.haltReason, t.pc)) = some (.badRegister, 0x10) := by decide

/-- C14 and C16: CALL R7 goes to the old SP. -/
theorem test_call :
    reads (step (startAt 9 [0x48, 1] |> withR .r1 0x20)) (fun t => (t.sp, t.memRead 0xF3, t.pc)) = some (0xF3, 0x0B, 0x20) ∧
    reads (step (startAt 0x10 [0x48, 7])) (fun t => (t.sp, t.memRead 0xF3, t.pc)) = some (0xF3, 0x12, 0xF4) := by decide

/-- C15: the return address wraps. -/
theorem test_calli :
    reads (step (startAt 0xFE [0x49, 0x40] |> poke 0xF3 [0x77])) (fun t => (t.sp, t.memRead 0xF3, t.pc)) =
      some (0xF3, 0, 0x40) := by decide

theorem test_ret :
    reads (step (startAt 0 [0x09] |> withR .r7 0xFF |> poke 0xFF [0x33])) (fun t => (t.pc, t.sp)) = some (0x33, 0) := by decide

/-! ### The stack (K1 to K7) -/

theorem test_push :
    reads (step (startAt 0x10 [0x4D, 0] |> withR .r0 0xAB |> withR .r7 0)) (fun t => (t.sp, t.memRead 0xFF, t.pc)) =
      some (0xFF, 0xAB, 0x12) ∧
    reads (step (startAt 0 [0x4D, 7])) (fun t => (t.sp, t.memRead 0xF3)) = some (0xF3, 0xF4) := by decide

theorem test_pop :
    reads (step (startAt 0 [0x4C, 1] |> withR .r7 0xF3 |> poke 0xF3 [0x15])) (fun t => (t.reg .r1, t.sp, t.pc)) =
      some (0x15, 0xF4, 2) ∧
    reads (step (startAt 0 [0x4C, 7] |> withR .r7 0xF3 |> poke 0xF3 [0x80])) State.sp = some 0x80 := by decide

/-! ### System and output (Y1 to Y8) -/

theorem test_hlt :
    reads (step (startAt 5 [0x01])) (fun t => (haltOf t, t.pc)) = some ((true, .hlt, .hlt 5 1), 5) := by decide

theorem test_prn : reads (step (startAt 0 [0x43, 0] |> withR .r0 255)) State.out = some [.emitNumber 255] := by decide
theorem test_pra : reads (step (startAt 0 [0x42, 1] |> withR .r1 0x41)) State.out = some [.emitChar 0x41] := by decide
theorem test_drw :
    reads (step (startAt 0 [0x90, 0, 1] |> withR .r0 3 |> withR .r1 4)) State.out = some [.plot 3 4] := by decide

/-- Y7. -/
theorem test_iret :
    reads (step (startAt 0 [0x0B] |> withR .r7 0xEB |> State.setIe false |>
        poke 0xEB [0x00, 0x01, 0x00, 0x00, 0x12, 0x20, 0x81, 0x00, 0x12])) (fun t => (t.regs, t.fl, t.pc, t.ie)) =
      some (⟨0x81, 0x20, 0x12, 0, 0, 0x01, 0x00, 0xF4⟩, 0, 0x12, true) := by decide

/-- R287: a run that has not halted has no observation; P1's last tick gives one. -/
theorem test_observation :
    State.reset.observation = none ∧
    reads (step (startAt 5 [0x01])) (fun t => t.observation.map fun o => (o.reason, o.pc, o.regs.r7, o.ie)) =
      some (some (.hlt, 5, 0xF4, true)) := by decide

/-! ### Interrupts (I1 to I8) -/

/-- The state before I1. -/
def beforeI1 : State :=
  startAt 0x12 [] |> withR .r0 0x81 |> withR .r1 0x20 |> withR .r2 0x12 |> withR .r5 1 |> withR .r6 1 |> poke 0xF8 [0x20]

theorem test_I1_entry :
    reads (step beforeI1) (fun t => (t.ie, t.is, t.sp, t.pc, t.ir)) = some (false, 0, 0xEB, 0x20, 0) ∧
    reads (step beforeI1) (fun t => t.bytesFrom 0xEB 9) =
      some [0x00, 0x01, 0x00, 0x00, 0x12, 0x20, 0x81, 0x00, 0x12] := by decide

theorem test_I2_lowest_line_first :
    reads (step (startAt 0 [0x01] |> withR .r5 0xFF |> withR .r6 6 |> poke 0xF9 [0x50])) (fun t => (t.is, t.pc, t.ie, t.halted)) =
      some (4, 0x50, false, false) := by decide

theorem test_I3_I4_no_entry :
    reads (step (startAt 0 [0x99, 3, 1] |> withR .r5 0xFF |> withR .r6 1 |> State.setIe false))
      (fun t => (t.reg .r3, t.pc, t.is)) = some (1, 3, 1) ∧
    reads (step (startAt 0 [0x99, 3, 1] |> withR .r5 1 |> withR .r6 2)) (fun t => (t.reg .r3, t.is)) = some (1, 2) := by decide

/-- I7, and a key press: the byte at KEY_ADDR and IS bit 1. -/
theorem test_environment :
    reads (runMoves [.raise 0, .tick] (startAt 0 [] |> withR .r5 1 |> poke 0xF8 [0x20])) State.pc = some 0x20 ∧
    reads (move (.key 0x41) (startAt 0 [])) (fun t => (t.memRead 0xF4, t.is)) = some (0x41, 2) := by decide

/-- I6: nothing moves a halted core. -/
theorem test_I6_halted :
    reads (runMoves [.raise 0, .key 1, .tick] (State.reset.halt .hlt (.hlt 0 1))) (· == State.reset.halt .hlt (.hlt 0 1)) =
      some true := by decide

/-! ### Witnesses: the hypotheses of every obligation that has any, met together -/

/-- A second valid opcode map: HLT and RET exchanged. -/
def otherMap : OpcodeMap := { defaultOpc with hlt := 0x09, ret := 0x01 }

/-- DecodeUndoesEncode, LengthFromOpcodeBits: valid maps, and a class 11 byte. One with two equal bytes and one with a wrong
count are refused. -/
theorem witness_valid_maps :
    defaultOpc.valid = true ∧ otherMap.valid = true ∧ (0xC0 : Byte).extractLsb' 6 2 = 3 ∧
    (0xFF : Byte).extractLsb' 6 2 = 3 ∧
    OpcodeMap.valid { defaultOpc with hlt := 0x09 } = false ∧ OpcodeMap.valid { defaultOpc with hlt := 0x41 } = false := by decide

/-- EncodeUndoesDecode. -/
theorem witness_decodes : decodeWith otherMap [0x09, 0x99] = .instr .hlt [0x99] := by decide

/-- The instructions of one operand and fewer, register operands at both ends of their range. -/
def shortInstrs : List Instr :=
  [.hlt, .ret, .iret, .pra 0, .prn 7, .call 0, .calli 255, .pop 7, .push 7, .jmp 0, .jeq 7, .jne 0, .jlt 7, .jgt 0, .jmpi 0,
    .not 7, .inc 0, .dec 7]

/-- The instructions of two operands. -/
def longInstrs : List Instr :=
  [.cmpi 0 255, .addi 7 0, .subi 0 255, .muli 7 2, .divi 0 1, .modi 7 255, .drw 0 7, .ld 7 0, .ldi 7 255, .st 0 7, .cmp 7 7,
    .add 0 7, .sub 7 0, .mul 0 0, .div 7 0, .mod 0 7, .or 7 7, .xor 0 0, .and 7 0]

/-- Every instruction. -/
def everyInstr : List Instr := shortInstrs ++ longInstrs

theorem every_operation_is_there : Op.all.all (fun o => (everyInstr.map Instr.op).contains o) = true := by decide

theorem poke_cfg (bytes : List Byte) : ∀ (a : Byte) (s : State), (poke a bytes s).cfg = s.cfg := by
  induction bytes with
  | nil => intro _ _; rfl
  | cons b bytes ih => intro a s; exact ih (a + 1) (s.memWrite a b)

/-- A state with the default parameters is ready where it is not halted and no line is pending and enabled. -/
theorem ready_of {s : State} (c : s.cfg = defaultConfig) (h : (!s.halted && s.is &&& s.im == 0) = true) : s.ready := by
  simp only [Bool.and_eq_true, Bool.not_eq_true', beq_iff_eq] at h
  exact ⟨h.1, .inr h.2, by rw [c]; exact witness_valid_maps.1⟩

theorem every_instruction_placed :
    everyInstr.all (fun i =>
      let s := startAt 0xFE (encode i)
      !s.halted && s.is &&& s.im == 0 && s.bytesFrom s.pc (encode i).length == encode i) = true := by decide

/-- The family rules and StepRunsDecodedInstruction: for every instruction a state ready to run it, its bytes at PC and
wrapping over the end of memory. -/
theorem witness_ready_and_fetches (i : Instr) (h : i ∈ everyInstr) :
    (startAt 0xFE (encode i)).ready ∧ (startAt 0xFE (encode i)).fetchesInstr i := by
  have c : (startAt 0xFE (encode i)).cfg = defaultConfig := poke_cfg ..
  have p := List.all_eq_true.mp every_instruction_placed i h
  simp only [Bool.and_eq_true] at p
  refine ⟨ready_of c (by simpa using p.1), ?_⟩
  unfold State.fetchesInstr
  rw [c]
  exact eq_of_beq p.2

/-- DivModRules, DiviModiRules: divisor registers of 0 and of 1 and 255, an immediate divisor at the bounds of 1 to 255. -/
theorem witness_divisors :
    (startAt 0 [0xAB, 0, 1]).fetched.reg .r1 = 0 ∧ (startAt 0 [0xAC, 7, 7] |> withR .r7 1).fetched.reg .r7 ≠ 0 ∧
    (startAt 0 [0xAB, 0, 1] |> withR .r1 255).fetched.reg .r1 ≠ 0 ∧ (1 : Byte) ≠ 0 ∧ (255 : Byte) ≠ 0 ∧
    (startAt 0 [0xAB, 0, 1]).bytesFrom 0 3 = encode (.div 0 1) ∧ (startAt 0 [0x8C, 7, 0]).bytesFrom 0 3 = encode (.modi 7 0) := by
  decide

/-- ConditionalJumpRules: each of the three bits at 1 and at 0. -/
theorem witness_flag_bits :
    (startAt 0 [0x51, 2] |> State.setFl 1).fetched.fl.getLsbD 0 = true ∧
    (startAt 0 [0x52, 2] |> State.setFl 0xFE).fetched.fl.getLsbD 0 = false ∧
    (startAt 0 [0x54, 2] |> State.setFl 2).fetched.fl.getLsbD 1 = true ∧
    (startAt 0 [0x54, 2] |> State.setFl 0xFD).fetched.fl.getLsbD 1 = false ∧
    (startAt 0 [0x53, 2] |> State.setFl 4).fetched.fl.getLsbD 2 = true ∧
    (startAt 0 [0x53, 2] |> State.setFl 0xFB).fetched.fl.getLsbD 2 = false := by decide

/-- BadRegisterOperandHalts and the last clause of every family rule: operand bytes at the bounds of both ranges, an
instruction with one, and a ready state that fetches it. -/
theorem witness_register_bytes :
    (0 : Byte).toNat ≤ 7 ∧ (7 : Byte).toNat ≤ 7 ∧ 7 < (8 : Byte).toNat ∧ 7 < (255 : Byte).toNat ∧
    Instr.wellFormed (.add 0 8) = false ∧ Instr.wellFormed (.jeq 255) = false ∧ regOf? 7 = some .r7 ∧ regOf? 8 = none := by
  decide

theorem witness_bad_register_ready :
    (startAt 0 [0xA8, 0, 8]).ready ∧ (startAt 0 [0xA8, 0, 8]).fetchesInstr (.add 0 8) :=
  ⟨ready_of rfl (by decide), by unfold State.fetchesInstr; decide⟩

/-- StepRunsDecodedInstruction, EnableLatchRule, BadRegisterOperandHalts (last clause), InterruptCheckOpensTheTick (second
clause): no interrupt because IE = 0 with
a line pending and enabled, and because none is. -/
theorem witness_decoded_at_pc :
    (startAt 0 [0x43, 0] |> withR .r5 1 |> withR .r6 1 |> State.setIe false).halted = false ∧
    (startAt 0 [0x43, 0] |> withR .r5 1 |> withR .r6 1 |> State.setIe false).ie = false ∧
    (startAt 0 [0x43, 0] |> withR .r5 1 |> withR .r6 0xFE).is &&& (startAt 0 [0x43, 0] |> withR .r5 1).im = 0 ∧
    decodeWith defaultOpc ((startAt 0 [0x43, 0]).bytesFrom 0 4) = .instr (.prn 0) [0, 0] := by decide

/-- UnassignedOpcodeIsNoOp: an opcode byte of no instruction in each of the four classes. -/
theorem witness_unassigned :
    (startAt 0 [0x00]).halted = false ∧ (startAt 0 [0x00]).is &&& (startAt 0 [0x00]).im = 0 ∧
    [0x00, 0x3F, 0x40, 0x7F, 0x81, 0xBF, 0xC0, 0xFF].all
      (fun b => (startAt 0 [b]).cfg.opc.opOf? ((startAt 0 [b]).memRead 0) == none) = true := by decide

/-- TransfersSetPcset: one that sets it, one that does not, and a conditional jump both ways, from PCSET = 0. -/
theorem witness_pcset :
    State.reset.pcset = false ∧ reads (exec (.jmpi 9) State.reset) State.pcset = some true ∧
    reads (exec (.add 0 1) State.reset) (fun t => (t.pcset, t.pc)) = some (false, 0) ∧
    reads (exec (.jne 1) State.reset) State.pcset = some true ∧
    reads (exec (.jeq 1) State.reset) (fun t => (t.pcset, t.pc)) = some (false, 0) := by decide

/-- HaltIsTerminalAndWritesNothingElse: a core that is not halted is after the tick, for each reason. -/
theorem witness_halting_ticks :
    [startAt 0 [0x01], startAt 0 [0xAB, 0, 1], startAt 0 [0x43, 8]].map (fun s => (s.halted, reads (step s) State.halted)) =
      [(false, some true), (false, some true), (false, some true)] ∧
    (State.reset.halt .hlt (.hlt 0 1)).halted = true := by decide

/-- HaltReasonsAndRecords: instructions that halt with each reason, and one that does not. -/
theorem witness_halt_reasons :
    haltsWith .hlt State.reset = .hlt ∧ haltsWith (.div 0 1) State.reset = .divZero ∧
    haltsWith (.modi 7 0) State.reset = .divZero ∧ haltsWith (.div 8 1) State.reset = .badRegister ∧
    haltsWith (.add 0 1) State.reset = .none ∧ (∃ t, exec (.add 0 1) State.reset = .next t) ∧
    (∃ t, exec (.div 8 1) State.reset = .next t) :=
  ⟨by decide, by decide, by decide, by decide, by decide, ⟨_, rfl⟩, ⟨_, rfl⟩⟩

/-- ComparisonSetsExactlyOneFlag, AluLeavesFlags. -/
theorem witness_alu :
    (Instr.cmp 0 7).op = .cmp ∧ (Instr.cmp 0 7).wellFormed = true ∧ (∃ t, exec (.cmp 0 7) State.reset = .next t) ∧
    (Instr.cmpi 7 255).op = .cmpi ∧ (Instr.cmpi 7 255).wellFormed = true ∧
    (∃ t, exec (.cmpi 7 255) State.reset = .next t) ∧ ∃ t, exec (.not 7) State.reset = .next t :=
  ⟨rfl, rfl, ⟨_, rfl⟩, rfl, rfl, ⟨_, rfl⟩, ⟨_, rfl⟩⟩

/-- ConditionalJumpsReadOneFlag: an FL that differs in every bit but the one tested. -/
theorem witness_other_flags :
    (Instr.jgt 0).op = .jgt ∧ (0x02 : Byte).getLsbD 1 = (State.reset.setFl 0xFF).fl.getLsbD 1 ∧
    (0xFE : Byte).getLsbD 0 = State.reset.fl.getLsbD 0 ∧ (0x04 : Byte).getLsbD 2 = (State.reset.setFl 0xFF).fl.getLsbD 2 ∧
    ∃ t, exec (.jgt 0) (State.reset.setFl 0xFF) = .next t :=
  ⟨rfl, by decide, by decide, by decide, ⟨_, rfl⟩⟩

/-- ReturnUndoesCall: the state right after the call, SP wrapping; both calls. -/
theorem witness_call_and_return :
    Memory.wf (State.reset |> withR .r7 0).mem = true ∧
    (∃ t, exec (.call 7) (State.reset |> withR .r7 0) = .next t ∧ t.sp = t.sp ∧ t.memRead t.sp = t.memRead t.sp) ∧
    ∃ t, exec (.calli 0xFF) (State.reset |> withR .r7 0) = .next t :=
  ⟨rfl, ⟨_, rfl, rfl, rfl⟩, ⟨_, rfl⟩⟩

/-- PopUndoesPush, MemoryReadsTheLatestWrite: canonical memories, and addresses beside the one written. -/
theorem witness_memory :
    Memory.wf State.reset.mem = true ∧ Memory.wf (startAt 0xFE [1, 2, 3]).mem = true ∧
    (0xFF : Byte) ≠ (State.reset |> withR .r7 1).sp - 1 ∧ (0x01 : Byte) ≠ 0x00 := by decide

/-- RegisterAndFlagFrame, MemoryFrame: for each clause an instruction that meets its premise, stores at both ends of memory. -/
theorem witness_frames :
    writesReg (.add 0 1) .r1 = false ∧ writesReg (.pop 0) .r1 = false ∧ writesReg (.pop 0) .r7 = true ∧
    writesFl (.add 0 1) = false ∧ writesFl (.cmpi 0 0) = true ∧ Instr.add 0 1 ≠ .iret ∧ sendsEvent (.ld 0 1) = false ∧
    storesAt (.st 0 1) State.reset = some 0 ∧ storesAt (.push 0) (State.reset |> withR .r7 0) = some 0xFF ∧
    storesAt (.calli 0) State.reset = some 0xF3 ∧ storesAt (.st 0 8) State.reset = none ∧
    storesAt (.ld 0 1) State.reset = none ∧ (∃ t, exec (.st 0 1) State.reset = .next t) ∧
    ∃ t, exec (.ld 0 1) State.reset = .next t :=
  ⟨by decide, by decide, by decide, by decide, by decide, by decide, by decide, by decide, by decide, by decide, by decide,
    by decide, ⟨_, rfl⟩, ⟨_, rfl⟩⟩

/-- The premises of InterruptCheckOpensTheTick (first clause), InterruptEntrySavesContext and InterruptRoundTrip. -/
def takesLine (s : State) (i : Fin 8) : Bool :=
  !s.halted && s.ie && (s.is &&& s.im != 0) && (s.is &&& s.im).getLsbD i.val &&
    (List.finRange 8).all (fun j => i ≤ j || !(s.is &&& s.im).getLsbD j.val) && Memory.wf s.mem && s.cfg.isIdx != .r7

/-- The first and the last line, several pending, and pushes that run into the vector table. -/
theorem witness_taken_lines :
    takesLine beforeI1 0 = true ∧ takesLine (State.reset |> withR .r5 0xFF |> withR .r6 6) 1 = true ∧
    takesLine (State.reset |> withR .r5 0x80 |> withR .r6 0xFF |> withR .r7 0) 7 = true := by decide

/-- InterruptRoundTrip: the state right after the entry, as a handler of IRET alone leaves it. -/
theorem witness_round_trip :
    ∃ t, step beforeI1 = .next t ∧ t.sp = t.sp ∧
      ∀ k : Fin 9, t.memRead (t.sp + BitVec.ofNat 8 k.val) = t.memRead (t.sp + BitVec.ofNat 8 k.val) :=
  ⟨_, rfl, rfl, fun _ => rfl⟩

/-- EnableLatchRule and OnlyIretEndsAHandler: an IRET, another instruction, and moves over which IE goes from 0 to 1. -/
theorem witness_enable_latch :
    (∃ t, exec .iret State.reset = .next t) ∧ (Instr.hlt ≠ .iret ∧ ∃ t, exec .hlt State.reset = .next t) ∧
    (startAt 0 [0x0B] |> State.setIe false).ie = false ∧
    reads (runMoves [.raise 3, .tick] (startAt 0 [0x0B] |> State.setIe false)) State.ie = some true :=
  ⟨⟨_, rfl⟩, ⟨by decide, ⟨_, rfl⟩⟩, by decide, by decide⟩

/-- RaiseAndKeyPress, RaisedLineIsServedNextTick: a core that is not halted and one that is; an enabled line with and without a
lower one pending and enabled. -/
theorem witness_raises :
    (State.reset |> withR .r5 0x80).halted = false ∧ (State.reset |> withR .r5 0x80).ie = true ∧
    (State.reset |> withR .r5 0x80).im.getLsbD 7 = true ∧ (State.reset |> withR .r5 0x81 |> withR .r6 1).im.getLsbD 7 = true ∧
    (State.reset |> withR .r5 1).im.getLsbD 0 = true ∧ defaultConfig.imIdx ≠ defaultConfig.isIdx ∧
    (State.reset.halt .hlt (.hlt 0 1)).halted = true := by decide

/-- CanonicalMemoryIsDeterminedByReads: memory written in two orders, one byte written and cleared again. -/
theorem witness_same_reads :
    Memory.wf (State.reset |> poke 5 [1, 2]).mem = true ∧
    Memory.wf (State.reset |> poke 6 [2, 9, 8] |> poke 5 [1] |> poke 7 [0, 0]).mem = true ∧
    ∀ x, (State.reset |> poke 5 [1, 2]).memRead x =
      (State.reset |> poke 6 [2, 9, 8] |> poke 5 [1] |> poke 7 [0, 0]).memRead x :=
  ⟨by decide, by decide, fun x => congrArg (memLookup · x.toNat)
    (show (State.reset |> poke 5 [1, 2]).mem = (State.reset |> poke 6 [2, 9, 8] |> poke 5 [1] |> poke 7 [0, 0]).mem by decide)⟩

/-- StepKeepsInvariant, EveryScheduleKeepsInvariant, OutputOnlyGrows: the invariant holds at reset, of a running core with a
program and of a halted one, and each takes a tick. -/
theorem witness_invariant :
    (Inv State.reset ∧ ∃ t, step State.reset = .next t) ∧
    (Inv (startAt 0 [0x43, 0]) ∧ ∃ t, runMoves [.key 65, .raise 0, .tick] (startAt 0 [0x43, 0]) = .next t) ∧
    Inv (State.reset.halt .hlt (.hlt 0 0)) ∧ ∃ t, step (State.reset.halt .hlt (.hlt 0 0)) = .next t :=
  ⟨⟨⟨rfl, by decide, rfl, by decide⟩, ⟨_, rfl⟩⟩, ⟨⟨rfl, by decide, rfl, by decide⟩, ⟨_, rfl⟩⟩,
    ⟨rfl, by decide, rfl, by decide⟩, ⟨_, rfl⟩⟩

/-- ResetAndBootMeetInvariant, LoadedImageIsInMemory: the empty image and the longest. -/
theorem witness_images : ([] : List Byte).length ≤ 256 ∧ (List.replicate 256 (0xFF : Byte)).length ≤ 256 :=
  ⟨Nat.zero_le _, Nat.le_of_eq List.length_replicate⟩

/-- CommentChangesNothing, BinaryDigitsLoadTheByte, AssemblyLineWritesTheInstruction. -/
theorem witness_texts :
    '#' ∉ "00000001 ".toList ∧ "".toList.all isBlankChar = true ∧ " \t\r".toList.all isBlankChar = true ∧
    Instr.wellFormed (.ldi 7 255) = true ∧ assemblyLine (.ldi 7 255) = "LDI R7, 255".toList := by decide

end Sys2Proof.Tests
end

namespace Sys2Proof.Machine
/-! The state at reset (10_state.md R36) and the latch IE (10_state.md R28): every instruction ends in a next state, and no
instruction but IRET reads or writes IE. -/

/-! ### Every instruction ends in a next state -/

theorem withReg_eq_next (k : Byte) (s : State) (f : Reg → State) : ∃ t, withReg k s f = .next t := by
  unfold withReg
  split
  · exact ⟨_, rfl⟩
  · exact ⟨_, rfl⟩

theorem withRegs_eq_next (a b : Byte) (s : State) (f : Reg → Reg → State) : ∃ t, withRegs a b s f = .next t := by
  unfold withRegs
  split
  · exact ⟨_, rfl⟩
  · exact ⟨_, rfl⟩

/-- No instruction faults or is refused (60_exceptions.md R240). -/
theorem exec_eq_next (i : Instr) (s : State) : ∃ t, exec i s = .next t := by
  cases i with
  | hlt | ret | iret | calli | jmpi => exact ⟨_, rfl⟩
  | pra | prn | call | pop | push | jmp | jeq | jne | jlt | jgt | not | inc | dec | cmpi | addi | subi | muli | divi
    | modi | ldi => exact withReg_eq_next _ s _
  | drw | ld | st | cmp | add | sub | mul | div | mod | or | xor | and => exact withRegs_eq_next _ _ s _

/-- The dispatcher ends in a next state, on an unassigned opcode too (30_encoding.md R84). -/
theorem execute_eq_next (s : State) : ∃ t, s.execute = .next t := by
  cases h : dispatch s.cfg.opc s.ir s.opa s.opb with
  | none => exact ⟨s, execute_none h⟩
  | some i => exact execute_some h ▸ exec_eq_next i s

/-- With IE = 0 the tick of a core that is not halted fetches and executes (60_exceptions.md R243). -/
theorem step_of_ie_false {s : State} (hrun : s.halted = false) (hie : s.ie = false) :
    ∃ t, s.fetched.execute = .next t ∧ step s = .next t.advance := by
  obtain ⟨t, ht⟩ := execute_eq_next s.fetched
  exact ⟨t, ht, step_fetch hrun ((lineToTake?_none_iff s).mpr (.inl hie)) ht⟩

/-! ### IE is written by IRET only -/

theorem exec_ie {i : Instr} {s t : State} (hi : i ≠ .iret) (h : exec i s = .next t) : t.ie = s.ie := by
  cases effect_of_exec h with
  | interruptReturn => exact absurd rfl hi
  | _ => simp

/-! ### IE is read by no instruction -/

/-- A one-register form commutes with writing IE where its effect does. -/
theorem withReg_setIe {k : Byte} {s t : State} {f g : Reg → State} (b : Bool) (hfg : ∀ r, g r = (f r).setIe b)
    (h : withReg k s f = .next t) : withReg k (s.setIe b) g = .next (t.setIe b) := by
  rcases withReg_cases h with ⟨r, rfl, rfl⟩ | ⟨bad, rfl⟩
  · rw [withReg_byte, hfg]
  · exact withReg_bad bad (s.setIe b) g

/-- A two-register form commutes with writing IE where its effect does. -/
theorem withRegs_setIe {k l : Byte} {s t : State} {f g : Reg → Reg → State} (b : Bool)
    (hfg : ∀ q r, g q r = (f q r).setIe b) (h : withRegs k l s f = .next t) :
    withRegs k l (s.setIe b) g = .next (t.setIe b) := by
  rcases withRegs_cases h with ⟨q, r, rfl, rfl, rfl⟩ | ⟨bad, rfl⟩
  · rw [withRegs_byte, hfg]
  · exact withRegs_bad bad (s.setIe b) g

/-- A choice whose two outcomes commute with writing IE commutes with it. -/
theorem ite_setIe {p : Prop} [Decidable p] {x y x' y' : State} (b : Bool) (hx : x' = x.setIe b) (hy : y' = y.setIe b) :
    (if p then x' else y') = (if p then x else y).setIe b := by
  rw [hx, hy, apply_ite (State.setIe b)]

theorem exec_setIe {i : Instr} {s t : State} (b : Bool) (hi : i ≠ .iret) (h : exec i s = .next t) :
    exec i (s.setIe b) = .next (t.setIe b) := by
  cases i with
  | iret => exact absurd rfl hi
  | hlt | ret | calli | jmpi =>
    cases h
    rfl
  | pra | prn | call | pop | push | jmp | not | inc | dec | cmpi | addi | subi | muli | ldi =>
    exact withReg_setIe b (fun _ => rfl) h
  | jeq | jne | jlt | jgt | divi | modi => exact withReg_setIe b (fun _ => ite_setIe b rfl rfl) h
  | drw | ld | st | cmp | add | sub | mul | or | xor | and => exact withRegs_setIe b (fun _ _ => rfl) h
  | div | mod => exact withRegs_setIe b (fun _ _ => ite_setIe b rfl rfl) h

/-- Settles O42: IE is 1 at reset, at 0 it shuts out the arbiter, and only interrupt entry and IRET use it otherwise. -/
theorem enableLatchRule : Obligations.EnableLatchRule := by
  unfold Obligations.EnableLatchRule
  refine ⟨fun _ => rfl, fun s => step_of_ie_false, fun s i => interruptEntry_ie i s, ?_, ?_⟩
  · intro s t h
    cases h
    exact interruptReturn_ie s
  · intro i s t b hi h
    exact ⟨exec_ie hi h, exec_setIe b hi h⟩

/-! ### Reset -/

theorem reg_resetWith_of_ne_r7 (c : Config) {r : Reg} (h : r ≠ .r7) : (State.resetWith c).reg r = 0 := by
  cases r with
  | r7 => exact absurd rfl h
  | r0 | r1 | r2 | r3 | r4 | r5 | r6 => rfl

/-- Memory at reset has no cell, so every address reads 0x00 (70_reset_and_hazards.md R281). -/
@[simp] theorem memRead_resetWith (c : Config) (a : Byte) : (State.resetWith c).memRead a = 0 := rfl

/-- Settles O53, field by field: all but R0 to R6 and memory are read off the record at reset. -/
theorem resetValues : Obligations.ResetValues := by
  unfold Obligations.ResetValues
  refine ⟨fun c => ⟨fun r => reg_resetWith_of_ne_r7 c, ?_⟩, rfl⟩
  exact ⟨rfl, rfl, rfl, rfl, rfl, rfl, rfl, rfl, rfl, rfl, rfl, rfl, memRead_resetWith c⟩

end Sys2Proof.Machine

namespace Sys2Proof
/-! Encoding (30_encoding.md): the operand count of an opcode byte, and an instruction rebuilt from the latches. -/

theorem one_le_operandCount_iff (b : Byte) : 1 ≤ operandCount b ↔ ¬ b.toNat < 64 := by
  unfold operandCount
  omega

theorem two_le_operandCount_iff (b : Byte) : 2 ≤ operandCount b ↔ ¬ b.toNat < 128 := by
  unfold operandCount
  omega

/-- An address past an opcode byte, that byte's own step apart from its operand bytes' steps (30_encoding.md R71, R76). -/
theorem add_ofNat_one_add (a : Byte) (n : Nat) : a + BitVec.ofNat 8 (1 + n) = a + 1 + BitVec.ofNat 8 n := by
  rw [BitVec.ofNat_add, ← BitVec.add_assoc]
  rfl

theorem dispatch_of_opOf?_none {m : OpcodeMap} {ir : Byte} (h : m.opOf? ir = none) (opa opb : Byte) :
    dispatch m ir opa opb = none := by
  simp [dispatch, h]

theorem Instr.length_operands (i : Instr) : i.operands.length = i.op.format.operandCount := by cases i <;> rfl

/-- Latches that hold an instruction's operand bytes give the instruction back; one that its format does not fill is not
read (30_encoding.md R73, R74). -/
theorem Instr.instr_op_of_operands {i : Instr} {opa opb : Byte}
    (h : [opa, opb].take i.op.format.operandCount = i.operands) : i.op.instr opa opb = i := by
  cases i with
  | hlt | ret | iret => rfl
  | _ =>
    cases h
    rfl

end Sys2Proof

namespace Sys2Proof.Machine
/-! The fetch unit and the dispatcher (30_encoding.md R70-R78, R84): what a fetch latches, that the tick runs the instruction
whose bytes stand at PC, and the ticks over an unassigned opcode and over a bad register operand. -/

/-! ### The fetch unit -/

/-- Settles O7: the operand count is at least 1 from 64 on and at least 2 from 128 on. -/
theorem fetchFillsTheLatches : Obligations.FetchFillsTheLatches := by
  unfold Obligations.FetchFillsTheLatches
  intro s
  refine ⟨rfl, ?_, ?_⟩
  · simp only [fetch_opa, one_le_operandCount_iff, ite_not]
  · simp only [fetch_opb, two_le_operandCount_iff, ite_not]

/-- The first operand latch is left alone only where no operand byte is asked for (30_encoding.md R71). -/
theorem fetched_opa (s : State) :
    s.fetched.opa = if operandCount (s.memRead s.pc) = 0 then s.opa else s.memRead (s.pc + 1) := by
  simp only [State.fetched, fetch_opa, memRead_setPcset, setPcset_pc, setPcset_opa, Nat.one_le_iff_ne_zero, ne_eq, ite_not]

/-- The second operand latch is left alone where at most one operand byte is asked for (30_encoding.md R71). -/
theorem fetched_opb (s : State) :
    s.fetched.opb = if operandCount (s.memRead s.pc) ≤ 1 then s.opb else s.memRead (s.pc + 2) := by
  have htwo : 2 ≤ operandCount (s.memRead s.pc) ↔ ¬ operandCount (s.memRead s.pc) ≤ 1 := by omega
  simp only [State.fetched, fetch_opb, memRead_setPcset, setPcset_pc, setPcset_opb, htwo, ite_not]

/-! ### The bytes at PC and the latches -/

theorem bytesFrom_succ (s : State) (a : Byte) (n : Nat) :
    s.bytesFrom a (n + 1) = s.memRead a :: s.bytesFrom (a + 1) n := by
  simp only [State.bytesFrom, List.range_succ_eq_map, List.map_cons, List.map_map, Function.comp_def, Nat.succ_eq_one_add,
    add_ofNat_one_add, BitVec.add_zero]

/-- After a fetch the latches hold the bytes that follow the opcode byte, as many as it asks for (30_encoding.md R71). -/
theorem operandBytes_fetched {s : State} (h : operandCount (s.memRead s.pc) ≤ 2) :
    s.fetched.operandBytes = s.bytesFrom (s.pc + 1) (operandCount (s.memRead s.pc)) := by
  have hcount : operandCount (s.memRead s.pc) = 0 ∨ operandCount (s.memRead s.pc) = 1 ∨
      operandCount (s.memRead s.pc) = 2 := by omega
  rcases hcount with hn | hn | hn <;>
    simp [State.operandBytes, State.fetched, State.bytesFrom, List.range_succ, hn, BitVec.add_assoc]

/-- The latches hold the bytes of the instruction that stands at PC. -/
theorem fetched_of_fetchesInstr {s : State} {i : Instr} (hv : s.cfg.opc.valid = true) (hf : s.fetchesInstr i) :
    s.fetched.ir = s.cfg.opc.byte i.op ∧ s.fetched.operandBytes = i.operands := by
  have hcons : s.memRead s.pc :: s.bytesFrom (s.pc + 1) i.operands.length = s.cfg.opc.byte i.op :: i.operands :=
    (bytesFrom_succ s s.pc _).symm.trans hf
  obtain ⟨hop, hrest⟩ := List.cons.inj hcons
  have hn : operandCount (s.memRead s.pc) = i.op.format.operandCount := hop ▸ OpcodeMap.valid_count hv i.op
  refine ⟨hop, ?_⟩
  rw [operandBytes_fetched (hn ▸ Op.format_operandCount_le i.op), hn, ← Instr.length_operands, hrest]

/-- The dispatcher finds the instruction whose bytes stand at PC (30_encoding.md R75). -/
theorem dispatch_fetched {s : State} {i : Instr} (hv : s.cfg.opc.valid = true) (hf : s.fetchesInstr i) :
    dispatch s.fetched.cfg.opc s.fetched.ir s.fetched.opa s.fetched.opb = some i := by
  obtain ⟨hir, hbytes⟩ := fetched_of_fetchesInstr hv hf
  rw [State.operandBytes, hir, OpcodeMap.valid_count hv] at hbytes
  rw [hir, fetched_cfg, dispatch_of_opOf? (OpcodeMap.opOf?_byte hv i.op), Instr.instr_op_of_operands hbytes]

/-- The tick of a ready core runs the instruction at PC, then advances PC (30_encoding.md R70). -/
theorem step_of_fetchesInstr {s t : State} {i : Instr} (hr : s.ready) (hf : s.fetchesInstr i)
    (he : exec i s.fetched = .next t) : step s = .next t.advance := by
  obtain ⟨hrun, hint, hv⟩ := hr
  exact step_fetch hrun ((lineToTake?_none_iff s).mpr hint) ((execute_some (dispatch_fetched hv hf)).trans he)

/-! ### Unassigned opcodes -/

/-- The tick over an unassigned opcode fetches, and moves PC past the instruction (30_encoding.md R84). -/
theorem step_unassigned {s : State} (hrun : s.halted = false) (hint : s.ie = false ∨ s.is &&& s.im = 0)
    (h : s.cfg.opc.opOf? (s.memRead s.pc) = none) :
    step s = .next (s.fetched.setPc (s.pc + BitVec.ofNat 8 (instrLength (s.memRead s.pc)))) := by
  have he : s.fetched.execute = .next s.fetched := execute_none (dispatch_of_opOf?_none h _ _)
  rw [step_fetch hrun ((lineToTake?_none_iff s).mpr hint) he, advance_of_running (s := s.fetched) hrun rfl, fetched_pc,
    fetched_ir]

/-- Settles O9: the tick over an unassigned opcode, field by field. -/
theorem unassignedOpcodeIsNoOp : Obligations.UnassignedOpcodeIsNoOp := by
  unfold Obligations.UnassignedOpcodeIsNoOp
  intro s hrun hint h
  rw [step_unassigned hrun hint h, instrLength, add_ofNat_one_add]
  refine congrArg Host.Outcome.next (State.ext rfl rfl rfl rfl rfl ?_ ?_ rfl rfl rfl rfl rfl rfl rfl)
  · exact fetched_opa s
  · exact fetched_opb s

/-! ### Register operand bytes -/

/-- An instruction with a register operand byte above 7 makes the BAD_REGISTER halt and nothing else
(30_encoding.md R78). -/
theorem exec_of_illFormed {i : Instr} (bad : i.wellFormed = false) (s : State) : exec i s = .next s.badRegister := by
  obtain ⟨t, ht⟩ := exec_eq_next i s
  rw [ht]
  cases effect_of_exec ht with
  | badRegister => rfl
  | stop | returnFrom | interruptReturn => cases bad
  | _ => exact absurd ‹i.wellFormed = true› (by simp [bad])

theorem haltsBadRegister_of_illFormed {i : Instr} (bad : i.wellFormed = false) : HaltsBadRegister i := by
  refine ⟨fun s _ => exec_of_illFormed bad s, fun s hr hf _ => ?_⟩
  rw [step_of_fetchesInstr hr hf (exec_of_illFormed bad s.fetched), advance_of_halted (badRegister_halted _)]
  rfl

/-- A byte in 0..7 names the register at that place in the file (30_encoding.md R78). -/
theorem regOf?_names_register (s : State) {k : Byte} (h : k.toNat ≤ 7) : ∃ r, regOf? k = some r ∧
    [s.regs.r0, s.regs.r1, s.regs.r2, s.regs.r3, s.regs.r4, s.regs.r5, s.regs.r6, s.regs.r7][k.toNat]? =
      some (s.reg r) := by
  obtain ⟨r, hr⟩ := (regByteOk_iff k).mp (decide_eq_true h)
  refine ⟨r, hr, ?_⟩
  rw [byte_of_regOf? hr]
  cases r <;> rfl

/-- Settles O14: the register a byte names, the BAD_REGISTER halt of every ill-formed instruction, and no halt from the
operand bytes of an unassigned opcode. -/
theorem badRegisterOperandHalts : Obligations.BadRegisterOperandHalts := by
  unfold Obligations.BadRegisterOperandHalts
  refine ⟨fun s k => regOf?_names_register s, fun k => (regOf?_eq_none_iff k).mpr,
    fun i => haltsBadRegister_of_illFormed, ?_⟩
  intro s t hrun hint h ht
  rw [step_unassigned hrun hint h] at ht
  cases ht
  exact hrun

end Sys2Proof.Machine

namespace Sys2Proof.Machine
/-! The rules of instructions that PC advances over (30_encoding.md R76), from what `exec` answers to the whole tick, and with
them LD, LDI and ST (40_data_movement.md R101-R103). -/

/-! ### Effects that PC advances over -/

/-- An effect that leaves to the tick what the advance reads and writes: PC, IR, PCSET and HALTED (30_encoding.md R76). -/
def LeavesAdvance (effect : State → State) : Prop :=
  ∀ s, (effect s).pc = s.pc ∧ (effect s).ir = s.ir ∧ (effect s).pcset = s.pcset ∧ (effect s).halted = s.halted

theorem leavesAdvance_setReg (r : Reg) (v : State → Byte) : LeavesAdvance fun s => s.setReg r (v s) :=
  fun _ => ⟨rfl, rfl, rfl, rfl⟩

theorem leavesAdvance_memWrite (a v : State → Byte) : LeavesAdvance fun s => s.memWrite (a s) (v s) :=
  fun _ => ⟨rfl, rfl, rfl, rfl⟩

/-- The opcode byte of an instruction gives its encoded length under every valid map (30_encoding.md R72). -/
theorem instrLength_byte_op {m : OpcodeMap} (hv : m.valid = true) (i : Instr) :
    instrLength (m.byte i.op) = (encode i).length := by
  rw [instrLength, OpcodeMap.valid_count hv, ← Instr.length_operands, Nat.add_comm]
  rfl

/-- After such an effect of the instruction at PC, the advance moves PC past the instruction's bytes. -/
theorem advance_of_leavesAdvance {s : State} {i : Instr} {effect : State → State} (hr : s.ready) (hf : s.fetchesInstr i)
    (hkeep : LeavesAdvance effect) :
    (effect s.fetched).advance = (effect s.fetched).setPc (s.pc + BitVec.ofNat 8 (encode i).length) := by
  obtain ⟨hrun, -, hv⟩ := hr
  obtain ⟨hpc, hir, hpcset, hhalted⟩ := hkeep s.fetched
  obtain ⟨hop, -⟩ := fetched_of_fetchesInstr hv hf
  rw [advance_of_running (hhalted.trans hrun) hpcset, hpc, hir, hop, instrLength_byte_op hv, fetched_pc]

/-- The tick's half of a rule follows from `exec`'s half. -/
theorem runsThenAdvances_of_exec {i : Instr} {n : Byte} {pre : State → Prop} {effect : State → State}
    (hn : BitVec.ofNat 8 (encode i).length = n) (hkeep : LeavesAdvance effect)
    (hexec : ∀ s, pre s → exec i s = .next (effect s)) : RunsThenAdvances i n pre effect := by
  refine ⟨hexec, fun s hr hf hpre => ?_⟩
  rw [step_of_fetchesInstr hr hf (hexec s.fetched hpre), advance_of_leavesAdvance hr hf hkeep, hn]

/-! ### The rules by format -/

/-- A register-register instruction (format F2RR) meets its rule where `exec` has the effect on every two registers. -/
theorem regRegRule_of_exec {opcode : Byte} {instr : Byte → Byte → Instr} {effect : Reg → Reg → State → State}
    (henc : ∀ a b, encode (instr a b) = [opcode, a, b])
    (hwf : ∀ a b, (instr a b).wellFormed = (regByteOk a && regByteOk b))
    (hkeep : ∀ ra rb, LeavesAdvance (effect ra rb))
    (hexec : ∀ (ra rb : Reg) s, exec (instr ra.byte rb.byte) s = .next (effect ra rb s)) :
    RegRegRule opcode instr effect := by
  refine ⟨henc, fun ra rb => ?_, fun a b bad => ?_⟩
  · exact runsThenAdvances_of_exec (by rw [henc]; rfl) (hkeep ra rb) fun s _ => hexec ra rb s
  · exact haltsBadRegister_of_illFormed ((hwf a b).trans (regByteOk_and_eq_false bad))

/-- A register-immediate instruction (format F2RI) meets its rule where `exec` has the effect on every register. -/
theorem regImmRule_of_exec {opcode : Byte} {instr : Byte → Byte → Instr} {effect : Reg → Byte → State → State}
    (henc : ∀ r imm, encode (instr r imm) = [opcode, r, imm])
    (hwf : ∀ r imm, (instr r imm).wellFormed = regByteOk r)
    (hkeep : ∀ r imm, LeavesAdvance (effect r imm))
    (hexec : ∀ (r : Reg) imm s, exec (instr r.byte imm) s = .next (effect r imm s)) :
    RegImmRule opcode instr effect := by
  refine ⟨henc, fun r imm => ?_, fun r imm bad => ?_⟩
  · exact runsThenAdvances_of_exec (by rw [henc]; rfl) (hkeep r imm) fun s _ => hexec r imm s
  · exact haltsBadRegister_of_illFormed ((hwf r imm).trans ((regByteOk_eq_false_iff r).mpr bad))

/-! ### LD, LDI and ST -/

theorem exec_ld (ra rb : Reg) (s : State) :
    exec (.ld ra.byte rb.byte) s = .next (s.setReg ra (s.memRead (s.reg rb))) :=
  withRegs_byte ra rb s _

theorem exec_ldi (r : Reg) (imm : Byte) (s : State) : exec (.ldi r.byte imm) s = .next (s.setReg r imm) :=
  withReg_byte r s _

theorem exec_st (ra rb : Reg) (s : State) :
    exec (.st ra.byte rb.byte) s = .next (s.memWrite (s.reg ra) (s.reg rb)) :=
  withRegs_byte ra rb s _

/-- Settles O15: LD and LDI write one register, which the advance does not look at. -/
theorem loadRules : Obligations.LoadRules := by
  unfold Obligations.LoadRules
  constructor
  · exact regRegRule_of_exec (fun _ _ => rfl) (fun _ _ => rfl) (fun ra _ => leavesAdvance_setReg ra _) exec_ld
  · exact regImmRule_of_exec (fun _ _ => rfl) (fun _ _ => rfl) (fun r _ => leavesAdvance_setReg r _) exec_ldi

/-- Settles O16: ST writes memory only; the advance reads the latched opcode byte, so a store over the instruction's own
bytes does not change it. -/
theorem storeRule : Obligations.StoreRule := by
  unfold Obligations.StoreRule
  exact regRegRule_of_exec (fun _ _ => rfl) (fun _ _ => rfl) (fun _ _ => leavesAdvance_memWrite _ _) exec_st

end Sys2Proof.Machine

namespace Sys2Proof.Machine
/-! The ALU (41_alu.md): its functions as the rules write them, one lemma for each of its forms that gives the whole rule of an
instruction of that form, and the instructions' rules from both. -/

/-! ### The ALU's functions as 41_alu.md writes them (R121, R123, R148) -/

theorem aluAdd_eq_ofNat (x y : Byte) : aluAdd x y = BitVec.ofNat 8 ((x.toNat + y.toNat) % 256) := rfl

theorem aluMul_eq_ofNat (x y : Byte) : aluMul x y = BitVec.ofNat 8 (x.toNat * y.toNat % 256) := rfl

theorem aluDiv_eq_ofNat (x y : Byte) : aluDiv x y = BitVec.ofNat 8 (x.toNat / y.toNat) := rfl

theorem aluSub_eq_ofInt (x y : Byte) : aluSub x y = BitVec.ofInt 8 ((x.toNat : Int) - y.toNat) := by
  apply BitVec.eq_of_toNat_eq
  simp only [aluSub, BitVec.toNat_ofNat, BitVec.toNat_ofInt]
  omega

theorem aluMod_eq_ofNat (x y : Byte) : aluMod x y = BitVec.ofNat 8 (x.toNat % y.toNat) := by
  rw [aluMod, Nat.mod_eq_sub]

theorem not_eq_ofNat (x : Byte) : ~~~x = BitVec.ofNat 8 (255 - x.toNat) := by
  apply BitVec.eq_of_toNat_eq
  rw [BitVec.toNat_not, BitVec.toNat_ofNat]
  omega

/-! ### From `exec` to the whole rule -/

/-- A one-register instruction (format F1R) meets its rule where `exec` has the effect on every register. -/
theorem regRule_of_exec {opcode : Byte} {instr : Byte → Instr} {effect : Reg → State → State}
    (henc : ∀ r, encode (instr r) = [opcode, r])
    (hwf : ∀ r, (instr r).wellFormed = regByteOk r)
    (hkeep : ∀ r, LeavesAdvance (effect r))
    (hexec : ∀ (r : Reg) s, exec (instr r.byte) s = .next (effect r s)) :
    RegRule opcode instr effect := by
  refine ⟨henc, fun r => ?_, fun r bad => ?_⟩
  · exact runsThenAdvances_of_exec (by rw [henc]; rfl) (hkeep r) fun s _ => hexec r s
  · exact haltsBadRegister_of_illFormed ((hwf r).trans ((regByteOk_eq_false_iff r).mpr bad))

/-- The tick's half of a rule follows from `exec`'s half where the effect halts or sets PCSET, so that the advance does
nothing (30_encoding.md R76). -/
theorem runsWithoutAdvance_of_exec {i : Instr} {pre : State → Prop} {effect : State → State}
    (hstay : ∀ s, (effect s).advance = effect s) (hexec : ∀ s, pre s → exec i s = .next (effect s)) :
    RunsWithoutAdvance i pre effect := by
  refine ⟨hexec, fun s hr hf hpre => ?_⟩
  rw [step_of_fetchesInstr hr hf (hexec s.fetched hpre), hstay]

/-! ### The rule of an instruction of each form (41_alu.md R120, R123)

`f` is the function the model's instruction applies and `g` the same function as the rule writes it. That the instruction has
the encoding, the operand check and the form is read off the model's definitions, one `rfl` each. -/

section Forms

variable {opcode : Byte} {f g : Byte → Byte → Byte} {instr : Byte → Byte → Instr}

theorem regRegRule_of_aluRegReg (hfg : ∀ x y, f x y = g x y)
    (henc : ∀ a b, encode (instr a b) = [opcode, a, b] := by intros; rfl)
    (hwf : ∀ a b, (instr a b).wellFormed = (regByteOk a && regByteOk b) := by intros; rfl)
    (hexec : ∀ a b s, exec (instr a b) s = aluRegReg f a b s := by intros; rfl) :
    RegRegRule opcode instr fun ra rb s => s.setReg ra (g (s.reg ra) (s.reg rb)) := by
  refine regRegRule_of_exec henc hwf (fun ra _ => leavesAdvance_setReg ra _) fun ra rb s => ?_
  rw [hexec, aluRegReg, withRegs_byte, hfg]

theorem regImmRule_of_aluRegImm (hfg : ∀ x y, f x y = g x y)
    (henc : ∀ r imm, encode (instr r imm) = [opcode, r, imm] := by intros; rfl)
    (hwf : ∀ r imm, (instr r imm).wellFormed = regByteOk r := by intros; rfl)
    (hexec : ∀ r imm s, exec (instr r imm) s = aluRegImm f r imm s := by intros; rfl) :
    RegImmRule opcode instr fun r imm s => s.setReg r (g (s.reg r) imm) := by
  refine regImmRule_of_exec henc hwf (fun r _ => leavesAdvance_setReg r _) fun r imm s => ?_
  rw [hexec, aluRegImm, withReg_byte, hfg]

theorem regRule_of_aluUnary {f g : Byte → Byte} {instr : Byte → Instr} (hfg : ∀ x, f x = g x)
    (henc : ∀ r, encode (instr r) = [opcode, r] := by intros; rfl)
    (hwf : ∀ r, (instr r).wellFormed = regByteOk r := by intros; rfl)
    (hexec : ∀ r s, exec (instr r) s = aluUnary f r s := by intros; rfl) :
    RegRule opcode instr fun r s => s.setReg r (g (s.reg r)) := by
  refine regRule_of_exec henc hwf (fun r => leavesAdvance_setReg r _) fun r s => ?_
  rw [hexec, aluUnary, withReg_byte, hfg]

theorem regRegDivisionRule_of_divideRegReg (hfg : ∀ x y, f x y = g x y)
    (henc : ∀ a b, encode (instr a b) = [opcode, a, b] := by intros; rfl)
    (hwf : ∀ a b, (instr a b).wellFormed = (regByteOk a && regByteOk b) := by intros; rfl)
    (hexec : ∀ a b s, exec (instr a b) s = divideRegReg f a b s := by intros; rfl) :
    RegRegDivisionRule opcode instr fun ra rb s => s.setReg ra (g (s.reg ra) (s.reg rb)) := by
  refine ⟨henc, fun ra rb => ?_, fun ra rb => ?_, fun a b bad => ?_⟩
  · refine runsThenAdvances_of_exec (by rw [henc]; rfl) (leavesAdvance_setReg ra _) fun s hdivisor => ?_
    rw [hexec, divideRegReg, withRegs_byte, if_neg hdivisor, hfg]
  · refine runsWithoutAdvance_of_exec (fun _ => advance_of_halted rfl) fun s hzero => ?_
    rw [hexec, divideRegReg, withRegs_byte, if_pos hzero, hzero]
    rfl
  · exact haltsBadRegister_of_illFormed ((hwf a b).trans (regByteOk_and_eq_false bad))

theorem regImmDivisionRule_of_divideRegImm (hfg : ∀ x y, f x y = g x y)
    (henc : ∀ r imm, encode (instr r imm) = [opcode, r, imm] := by intros; rfl)
    (hwf : ∀ r imm, (instr r imm).wellFormed = regByteOk r := by intros; rfl)
    (hexec : ∀ r imm s, exec (instr r imm) s = divideRegImm f r imm s := by intros; rfl) :
    RegImmDivisionRule opcode instr fun r imm s => s.setReg r (g (s.reg r) imm) := by
  refine ⟨henc, fun r imm hdivisor => ?_, fun r => ?_, fun r imm bad => ?_⟩
  · refine runsThenAdvances_of_exec (by rw [henc]; rfl) (leavesAdvance_setReg r _) fun s _ => ?_
    rw [hexec, divideRegImm, withReg_byte, if_neg hdivisor, hfg]
  · refine runsWithoutAdvance_of_exec (fun _ => advance_of_halted rfl) fun s _ => ?_
    rw [hexec, divideRegImm, withReg_byte, if_pos rfl]
    rfl
  · exact haltsBadRegister_of_illFormed ((hwf r imm).trans ((regByteOk_eq_false_iff r).mpr bad))

end Forms

/-! ### Arithmetic (41_alu.md R125-R136) -/

/-- Settles O17: ADD, SUB and MUL have the register-register form, with the integers' sum, difference and product modulo
256. -/
theorem addSubMulRules : Obligations.AddSubMulRules := by
  unfold Obligations.AddSubMulRules
  refine ⟨?_, ?_, ?_⟩
  · exact regRegRule_of_aluRegReg aluAdd_eq_ofNat
  · exact regRegRule_of_aluRegReg aluSub_eq_ofInt
  · exact regRegRule_of_aluRegReg aluMul_eq_ofNat

/-- Settles O18: DIV and MOD have the register-register division form, whose zero divisor halts. -/
theorem divModRules : Obligations.DivModRules := by
  unfold Obligations.DivModRules
  constructor
  · exact regRegDivisionRule_of_divideRegReg aluDiv_eq_ofNat
  · exact regRegDivisionRule_of_divideRegReg aluMod_eq_ofNat

/-- Settles O19: ADDI, SUBI and MULI apply the functions of ADD, SUB and MUL in the register-immediate form. -/
theorem addiSubiMuliRules : Obligations.AddiSubiMuliRules := by
  unfold Obligations.AddiSubiMuliRules
  refine ⟨?_, ?_, ?_⟩
  · exact regImmRule_of_aluRegImm aluAdd_eq_ofNat
  · exact regImmRule_of_aluRegImm aluSub_eq_ofInt
  · exact regImmRule_of_aluRegImm aluMul_eq_ofNat

/-- Settles O20: DIVI and MODI apply the functions of DIV and MOD in the register-immediate division form. -/
theorem diviModiRules : Obligations.DiviModiRules := by
  unfold Obligations.DiviModiRules
  constructor
  · exact regImmDivisionRule_of_divideRegImm aluDiv_eq_ofNat
  · exact regImmDivisionRule_of_divideRegImm aluMod_eq_ofNat

/-- Settles O21: INC and DEC add and subtract 1 as ADD and SUB do, and the complement of v is 255 - v. -/
theorem unaryRules : Obligations.UnaryRules := by
  unfold Obligations.UnaryRules
  refine ⟨?_, ?_, ?_⟩
  · exact regRule_of_aluUnary fun x => aluAdd_eq_ofNat x 1
  · exact regRule_of_aluUnary fun x => aluSub_eq_ofInt x 1
  · exact regRule_of_aluUnary not_eq_ofNat

/-! ### Logic (41_alu.md R145-R147) -/

/-- Settles O22: AND, OR and XOR have the register-register form, with the rules' own bitwise functions. -/
theorem logicRules : Obligations.LogicRules := by
  unfold Obligations.LogicRules
  refine ⟨?_, ?_, ?_⟩
  · exact regRegRule_of_aluRegReg fun _ _ => rfl
  · exact regRegRule_of_aluRegReg fun _ _ => rfl
  · exact regRegRule_of_aluRegReg fun _ _ => rfl

/-! ### Comparison (41_alu.md R140, R141) -/

theorem leavesAdvance_setFl (v : State → Byte) : LeavesAdvance fun s => s.setFl (v s) :=
  fun _ => ⟨rfl, rfl, rfl, rfl⟩

theorem exec_cmp (ra rb : Reg) (s : State) :
    exec (.cmp ra.byte rb.byte) s = .next (s.setFl (compareFlags (s.reg ra) (s.reg rb))) :=
  withRegs_byte ra rb s _

theorem exec_cmpi (r : Reg) (imm : Byte) (s : State) :
    exec (.cmpi r.byte imm) s = .next (s.setFl (compareFlags (s.reg r) imm)) :=
  withReg_byte r s _

/-- Settles O23: CMP and CMPI write FL only, which the advance does not look at. -/
theorem compareRules : Obligations.CompareRules := by
  unfold Obligations.CompareRules
  constructor
  · exact regRegRule_of_exec (fun _ _ => rfl) (fun _ _ => rfl) (fun _ _ => leavesAdvance_setFl _) exec_cmp
  · exact regImmRule_of_exec (fun _ _ => rfl) (fun _ _ => rfl) (fun _ _ => leavesAdvance_setFl _) exec_cmpi

/-! ### The frame of the other ALU instructions (41_alu.md R124) -/

/-- Settles O38: these instructions write one register or halt; every other shape of next state belongs to other
operations. -/
theorem aluLeavesFlags : Obligations.AluLeavesFlags := by
  unfold Obligations.AluLeavesFlags
  intro i s t hi h
  cases effect_of_exec h with
  | writeReg | badRegister | divideByZero => exact ⟨rfl, rfl, rfl, rfl⟩
  | stop | returnFrom | interruptReturn => exact absurd hi (by decide)
  | store _ _ _ _ op | pushReg _ _ _ op | popReg _ _ _ op => exact absurd (op ▸ hi) (by decide)
  | compare _ _ _ _ op | send _ _ _ op | passOver _ _ op | jump _ _ _ op | callTo _ _ _ op =>
    exact absurd op ((show ∀ o ∈ _, o ∉ _ by decide) _ hi)

end Sys2Proof.Machine

namespace Sys2Proof.Machine
/-! Control transfer (42_control.md R163-R172): the rules of instructions that set PC, by format, from what `exec` answers to
the whole tick, and with them the jumps, the calls and RET. -/

/-! ### The rules by format -/

/-- The tick's half of a rule follows from `exec`'s half where the effect sets PCSET (30_encoding.md R76, R77). -/
theorem runsWithoutAdvance_of_pcset {i : Instr} {pre : State → Prop} {effect : State → State}
    (hset : ∀ s, (effect s).pcset = true) (hexec : ∀ s, pre s → exec i s = .next (effect s)) :
    RunsWithoutAdvance i pre effect :=
  runsWithoutAdvance_of_exec (fun s => advance_of_pcset (hset s)) hexec

/-- A one-register instruction (format F1R) that always transfers control meets its rule where `exec` has the effect on every
register. -/
theorem regTransferRule_of_exec {opcode : Byte} {instr : Byte → Instr} {effect : Reg → State → State}
    (henc : ∀ r, encode (instr r) = [opcode, r])
    (hwf : ∀ r, (instr r).wellFormed = regByteOk r)
    (hset : ∀ r s, (effect r s).pcset = true)
    (hexec : ∀ (r : Reg) s, exec (instr r.byte) s = .next (effect r s)) :
    RegTransferRule opcode instr effect := by
  refine ⟨henc, fun r => ?_, fun r bad => ?_⟩
  · exact runsWithoutAdvance_of_pcset (hset r) fun s _ => hexec r s
  · exact haltsBadRegister_of_illFormed ((hwf r).trans ((regByteOk_eq_false_iff r).mpr bad))

/-- A one-immediate instruction (format F1I) meets its rule where `exec` has the effect. -/
theorem immTransferRule_of_exec {opcode : Byte} {instr : Byte → Instr} {effect : Byte → State → State}
    (henc : ∀ imm, encode (instr imm) = [opcode, imm])
    (hset : ∀ imm s, (effect imm s).pcset = true)
    (hexec : ∀ imm s, exec (instr imm) s = .next (effect imm s)) :
    ImmTransferRule opcode instr effect :=
  ⟨henc, fun imm => runsWithoutAdvance_of_pcset (hset imm) fun s _ => hexec imm s⟩

/-! ### JMP and JMPI (42_control.md R163, R164) -/

theorem exec_jmp (r : Reg) (s : State) : exec (.jmp r.byte) s = .next (s.transfer (s.reg r)) :=
  withReg_byte r s _

theorem exec_jmpi (imm : Byte) (s : State) : exec (.jmpi imm) s = .next (s.transfer imm) := rfl

/-- Settles O25: JMP and JMPI make a transfer, whose PCSET keeps the tick from advancing PC. -/
theorem jumpRules : Obligations.JumpRules := by
  unfold Obligations.JumpRules
  constructor
  · exact regTransferRule_of_exec (fun _ => rfl) (fun _ => rfl) (fun _ _ => rfl) exec_jmp
  · exact immTransferRule_of_exec (fun _ => rfl) (fun _ _ => rfl) exec_jmpi

/-! ### The conditional jumps (42_control.md R165-R168) -/

theorem leavesAdvance_id : LeavesAdvance id :=
  fun _ => ⟨rfl, rfl, rfl, rfl⟩

theorem jumpIf_taken {b : Bool} (h : b = true) (r : Reg) (s : State) :
    jumpIf b r.byte s = .next (s.transfer (s.reg r)) := by
  rw [jumpIf, withReg_byte, if_pos h]

theorem jumpIf_untaken {b : Bool} (h : ¬ b = true) (r : Reg) (s : State) : jumpIf b r.byte s = .next s := by
  rw [jumpIf, withReg_byte, if_neg h]

/-- A conditional jump meets its rule where the model's test `cond` of FL is the rule's condition `taken`: it is a transfer
where that holds and is passed over where it does not. -/
theorem regJumpRule_of_jumpIf {opcode : Byte} {instr : Byte → Instr} {cond : Byte → Bool} {taken : State → Prop}
    (hcond : ∀ s, cond s.fl = true ↔ taken s)
    (henc : ∀ r, encode (instr r) = [opcode, r] := by intros; rfl)
    (hwf : ∀ r, (instr r).wellFormed = regByteOk r := by intros; rfl)
    (hexec : ∀ r s, exec (instr r) s = jumpIf (cond s.fl) r s := by intros; rfl) :
    RegJumpRule opcode instr taken fun r s => s.transfer (s.reg r) := by
  refine ⟨henc, fun r => ?_, fun r => ?_, fun r bad => ?_⟩
  · refine runsWithoutAdvance_of_pcset (fun _ => rfl) fun s htaken => ?_
    rw [hexec, jumpIf_taken ((hcond s).mpr htaken)]
  · refine runsThenAdvances_of_exec (by rw [henc]; rfl) leavesAdvance_id fun s huntaken => ?_
    rw [hexec, jumpIf_untaken (mt (hcond s).mp huntaken), id]
  · exact haltsBadRegister_of_illFormed ((hwf r).trans ((regByteOk_eq_false_iff r).mpr bad))

/-- Settles O26: the four conditional jumps have one form and differ in the test of FL, where JNE's is the negation of
JEQ's. -/
theorem conditionalJumpRules : Obligations.ConditionalJumpRules := by
  unfold Obligations.ConditionalJumpRules
  refine ⟨?_, ?_, ?_, ?_⟩
  · exact regJumpRule_of_jumpIf (cond := flagE) fun _ => Iff.rfl
  · exact regJumpRule_of_jumpIf (cond := fun fl => !flagE fl) fun _ => iff_of_eq (Bool.not_eq_true' _)
  · exact regJumpRule_of_jumpIf (cond := flagG) fun _ => Iff.rfl
  · exact regJumpRule_of_jumpIf (cond := flagL) fun _ => Iff.rfl

/-! ### CALL, CALLI and RET (42_control.md R170-R172) -/

theorem exec_call (r : Reg) (s : State) : exec (.call r.byte) s = .next (s.call (s.reg r)) :=
  withReg_byte r s _

theorem exec_calli (imm : Byte) (s : State) : exec (.calli imm) s = .next (s.call imm) := rfl

theorem exec_ret (s : State) : exec .ret s = .next (s.pop.2.transfer s.pop.1) := rfl

/-- Settles O28: a call is the push of the return address and then a transfer to the target, which CALL reads in the state
before the push. -/
theorem callRules : Obligations.CallRules := by
  unfold Obligations.CallRules
  constructor
  · exact regTransferRule_of_exec (fun _ => rfl) (fun _ => rfl) (fun _ _ => rfl) exec_call
  · exact immTransferRule_of_exec (fun _ => rfl) (fun _ _ => rfl) exec_calli

/-- Settles O29: RET is a pop and then a transfer to the byte popped. -/
theorem returnRule : Obligations.ReturnRule := by
  unfold Obligations.ReturnRule
  exact ⟨rfl, runsWithoutAdvance_of_pcset (fun _ => rfl) fun s _ => exec_ret s⟩

end Sys2Proof.Machine

namespace Sys2Proof.Machine
/-! PUSH and POP (43_stack.md R195, R196): the stack engine's push and pop as instructions that PC advances over. -/

theorem leavesAdvance_push (v : State → Byte) : LeavesAdvance fun s => s.push (v s) :=
  fun _ => ⟨rfl, rfl, rfl, rfl⟩

theorem leavesAdvance_popInto (r : Reg) : LeavesAdvance (State.popInto r) :=
  fun _ => ⟨rfl, rfl, rfl, rfl⟩

theorem exec_push (r : Reg) (s : State) : exec (.push r.byte) s = .next (s.push (s.reg r)) :=
  withReg_byte r s _

theorem exec_pop (r : Reg) (s : State) : exec (.pop r.byte) s = .next (s.popInto r) :=
  withReg_byte r s _

/-- Settles O31: PUSH pushes the register's value in the state before SP moves, and POP writes the register after SP has
risen; neither touches what the advance looks at. -/
theorem pushPopRules : Obligations.PushPopRules := by
  unfold Obligations.PushPopRules
  constructor
  · exact regRule_of_exec (fun _ => rfl) (fun _ => rfl) (fun _ => leavesAdvance_push _) exec_push
  · exact regRule_of_exec (fun _ => rfl) (fun _ => rfl) leavesAdvance_popInto exec_pop

end Sys2Proof.Machine

namespace Sys2Proof.Machine
/-! Halt, display output and interrupt return (44_system.md R210-R220): HLT with what may follow a halt, PRN, PRA, DRW and
IRET. -/

/-! ### What follows a halt (60_exceptions.md R241) -/

theorem raiseLine_of_halted {s : State} (h : s.halted = true) (i : Fin 8) : s.raiseLine i = s := by
  rw [State.raiseLine, if_pos h]

theorem keyPress_of_halted {s : State} (h : s.halted = true) (k : Byte) : s.keyPress k = s := by
  rw [State.keyPress, if_pos h]

/-- A halted core answers every tick, raise and key press with the state it is in. -/
theorem move_of_halted {s : State} (h : s.halted = true) (m : Move) : move m s = .next s := by
  cases m with
  | tick => exact step_halted h
  | raise i => rw [move, raiseLine_of_halted h]
  | key k => rw [move, keyPress_of_halted h]

/-- Over any interleaving of moves a halted core stays in the state it is in. -/
theorem runMoves_of_halted {s : State} (h : s.halted = true) (ms : List Move) : runMoves ms s = .next s := by
  induction ms with
  | nil => rfl
  | cons m ms ih => simp only [runMoves, move_of_halted h, ih]

/-! ### HLT (44_system.md R210) -/

theorem exec_hlt (s : State) : exec .hlt s = .next (s.halt .hlt (.hlt s.pc s.ir)) := rfl

/-- Settles O33: HLT writes the halt state, which keeps the tick from advancing PC and every later move from changing
anything. -/
theorem haltRule : Obligations.HaltRule := by
  unfold Obligations.HaltRule
  refine ⟨⟨rfl, ?_⟩, fun ms s t h => ?_⟩
  · exact runsWithoutAdvance_of_exec (fun _ => advance_of_halted rfl) fun s _ => exec_hlt s
  · obtain rfl := Host.Outcome.next.inj ((exec_hlt s).symm.trans h)
    exact runMoves_of_halted (halt_halted ..) ms

/-! ### PRN, PRA and DRW (44_system.md R212-R214) -/

theorem leavesAdvance_emit (e : State → DisplayEvent) : LeavesAdvance fun s => s.emit (e s) :=
  fun _ => ⟨rfl, rfl, rfl, rfl⟩

theorem exec_prn (r : Reg) (s : State) : exec (.prn r.byte) s = .next (s.emit (.emitNumber (s.reg r))) :=
  withReg_byte r s _

theorem exec_pra (r : Reg) (s : State) : exec (.pra r.byte) s = .next (s.emit (.emitChar (s.reg r))) :=
  withReg_byte r s _

theorem exec_drw (ra rb : Reg) (s : State) :
    exec (.drw ra.byte rb.byte) s = .next (s.emit (.plot (s.reg ra) (s.reg rb))) :=
  withRegs_byte ra rb s _

/-- Settles O34: each display instruction sends one event of its register values, and OUT is nothing the advance looks at. -/
theorem displayRules : Obligations.DisplayRules := by
  unfold Obligations.DisplayRules
  refine ⟨?_, ?_, ?_⟩
  · exact regRule_of_exec (fun _ => rfl) (fun _ => rfl) (fun _ => leavesAdvance_emit _) exec_prn
  · exact regRule_of_exec (fun _ => rfl) (fun _ => rfl) (fun _ => leavesAdvance_emit _) exec_pra
  · exact regRegRule_of_exec (fun _ _ => rfl) (fun _ _ => rfl) (fun _ _ => leavesAdvance_emit _) exec_drw

/-! ### IRET (44_system.md R220) -/

theorem exec_iret (s : State) : exec .iret s = .next s.interruptReturn := rfl

/-- Settles O35: the nine pops of IRET are one update of the state, and the PCSET it sets keeps the tick from advancing PC. -/
theorem interruptReturnRule : Obligations.InterruptReturnRule := by
  unfold Obligations.InterruptReturnRule
  refine ⟨rfl, runsWithoutAdvance_of_pcset (fun _ => rfl) fun s _ => ?_⟩
  rw [exec_iret, interruptReturn_eq]

end Sys2Proof.Machine

namespace Sys2Proof.Machine
/-! Halting (60_exceptions.md R241, R242): which instruction halts and what its halt writes, what one tick can do, and the tick
that halts. -/

/-! ### The halt reasons and records (60_exceptions.md R242) -/

theorem haltsWith_of_illFormed {i : Instr} (bad : i.wellFormed = false) (s : State) : haltsWith i s = .badRegister := by
  simp [haltsWith, bad]

theorem haltRecord_of_illFormed {i : Instr} (bad : i.wellFormed = false) (s : State) :
    haltRecord i s = .badRegister s.pc s.ir s.operandBytes := by
  simp only [haltRecord, haltsWith_of_illFormed bad]

/-- An instruction that halts writes the halt state alone, with its reason and its record (60_exceptions.md R241). -/
theorem exec_eq_halt {i : Instr} {s t : State} (h : exec i s = .next t) (hhalts : haltsWith i s ≠ .none) :
    t = s.halt (haltsWith i s) (haltRecord i s) := by
  cases effect_of_exec h with
  | badRegister bad => rw [haltsWith_of_illFormed bad, haltRecord_of_illFormed bad, State.badRegister]
  | divideByZero _ zero => rw [zero]
  | stop => rfl
  | returnFrom | interruptReturn => exact absurd rfl hhalts
  | _ => exact absurd ‹haltsWith i s = .none› hhalts

theorem exec_leaves_haltState {i : Instr} {s t : State} (h : exec i s = .next t) (hruns : haltsWith i s = .none) :
    t.halted = s.halted ∧ t.haltReason = s.haltReason ∧ t.haltInfo = s.haltInfo := by
  cases effect_of_exec h with
  | badRegister bad => exact absurd ((haltsWith_of_illFormed bad s).symm.trans hruns) (by decide)
  | divideByZero _ zero => exact absurd (zero.symm.trans hruns) (by decide)
  | stop => cases hruns
  | interruptReturn => simp
  | _ => exact ⟨rfl, rfl, rfl⟩

/-- Settles O13: an instruction halts with its reason and record or leaves the halt state alone. -/
theorem haltReasonsAndRecords : Obligations.HaltReasonsAndRecords := by
  unfold Obligations.HaltReasonsAndRecords
  refine ⟨fun i s t h => ⟨exec_leaves_haltState h, fun hhalts => ?_⟩, rfl, rfl, rfl, rfl⟩
  obtain rfl := exec_eq_halt h hhalts
  exact ⟨rfl, rfl, rfl⟩

/-! ### What one tick can do (30_encoding.md R70) -/

/-- With no line to take, the tick of a core that is not halted fetches, executes and advances. -/
theorem step_of_no_line {s : State} (hrun : s.halted = false) (hl : s.lineToTake? = none) :
    ∃ t, s.fetched.execute = .next t ∧ step s = .next t.advance := by
  obtain ⟨t, ht⟩ := execute_eq_next s.fetched
  exact ⟨t, ht, step_fetch hrun hl ht⟩

/-- The tick of a core that is not halted is the entry of the line to take, or fetches, executes and advances. -/
theorem step_cases {s t : State} (hrun : s.halted = false) (h : step s = .next t) :
    (∃ i, s.lineToTake? = some i ∧ t = (s.setPcset false).interruptEntry i) ∨
    (s.lineToTake? = none ∧ ∃ u, s.fetched.execute = .next u ∧ t = u.advance) := by
  cases hl : s.lineToTake? with
  | some i => exact .inl ⟨i, rfl, Host.Outcome.next.inj (h.symm.trans (step_entry hrun hl))⟩
  | none =>
    obtain ⟨u, hu, hstep⟩ := step_of_no_line hrun hl
    exact .inr ⟨rfl, u, hu, Host.Outcome.next.inj (h.symm.trans hstep)⟩

/-- The dispatcher leaves the state as it is, on an unassigned opcode, or runs the instruction it finds
(30_encoding.md R75, R84). -/
theorem execute_cases {s t : State} (h : s.execute = .next t) :
    (dispatch s.cfg.opc s.ir s.opa s.opb = none ∧ t = s) ∨
    ∃ i, dispatch s.cfg.opc s.ir s.opa s.opb = some i ∧ exec i s = .next t := by
  cases hd : dispatch s.cfg.opc s.ir s.opa s.opb with
  | none => exact .inl ⟨rfl, Host.Outcome.next.inj (h.symm.trans (execute_none hd))⟩
  | some i => exact .inr ⟨i, rfl, (execute_some hd).symm.trans h⟩

@[simp] theorem advance_halted (s : State) : s.advance.halted = s.halted := by
  rcases advance_cases s with ⟨h, -⟩ | ⟨h, -⟩ <;> rw [h]
  rfl

/-! ### The tick that halts (60_exceptions.md R241) -/

/-- Where the dispatcher halts a running core, it ran an instruction that halts, and the halt is all that it did. -/
theorem execute_eq_halt {s t : State} (hrun : s.halted = false) (h : s.execute = .next t) (hhalted : t.halted = true) :
    ∃ i, dispatch s.cfg.opc s.ir s.opa s.opb = some i ∧ haltsWith i s ≠ .none ∧
      t = s.halt (haltsWith i s) (haltRecord i s) := by
  rcases execute_cases h with ⟨-, rfl⟩ | ⟨i, hi, he⟩
  · exact absurd hhalted (by simp [hrun])
  · have hhalts : haltsWith i s ≠ .none := fun hruns => by
      obtain ⟨hkeep, -, -⟩ := exec_leaves_haltState he hruns
      exact absurd hhalted (by simp [hkeep, hrun])
    exact ⟨i, hi, hhalts, exec_eq_halt he hhalts⟩

/-- Settles O12: neither an interrupt entry nor the advance halts, so the halt is the fetched instruction's, and it keeps PC
from advancing. -/
theorem haltIsTerminalAndWritesNothingElse : Obligations.HaltIsTerminalAndWritesNothingElse := by
  unfold Obligations.HaltIsTerminalAndWritesNothingElse
  refine ⟨fun s t hrun h hhalted => ?_, fun ms s h => runMoves_of_halted h ms⟩
  rcases step_cases hrun h with ⟨i, -, rfl⟩ | ⟨-, u, hu, rfl⟩
  · exact absurd hhalted (by simp [hrun])
  · rw [advance_halted] at hhalted
    obtain ⟨i, hi, hhalts, rfl⟩ := execute_eq_halt (s := s.fetched) hrun hu hhalted
    exact ⟨i, hi, hhalts, advance_of_halted hhalted⟩

end Sys2Proof.Machine

namespace Sys2Proof.Machine
/-! Taking an interrupt (60_exceptions.md R243-R249): the check that opens the tick, and what an entry leaves in every register
and in every byte of memory. -/

/-! ### The interrupt check (60_exceptions.md R243, R244) -/

/-- The line to take is the lowest that is pending and enabled, where IE = 1. -/
theorem lineToTake?_eq {s : State} {i : Fin 8} (hie : s.ie = true) (hi : (s.is &&& s.im).getLsbD i.val = true)
    (hlow : ∀ j : Fin 8, j < i → (s.is &&& s.im).getLsbD j.val = false) : s.lineToTake? = some i := by
  rw [State.lineToTake?, if_pos hie, lowestLine_eq hi hlow]

theorem lineToTake?_spec {s : State} {i : Fin 8} (h : s.lineToTake? = some i) :
    (s.is &&& s.im).getLsbD i.val = true ∧ ∀ j : Fin 8, j < i → (s.is &&& s.im).getLsbD j.val = false := by
  unfold State.lineToTake? at h
  split at h
  · exact lowestLine_spec h
  · cases h

/-- Settles O39: the check finds a line just where IE = 1 and one is pending and enabled, and the entry of that line is then
the tick. -/
theorem interruptCheckOpensTheTick : Obligations.InterruptCheckOpensTheTick := by
  unfold Obligations.InterruptCheckOpensTheTick
  refine ⟨fun s hrun hie hpending => ?_, fun s hrun hnone => step_of_no_line hrun ((lineToTake?_none_iff s).mpr hnone)⟩
  cases hl : s.lineToTake? with
  | none => exact absurd ((lineToTake?_none_iff s).mp hl) (not_or.mpr ⟨by simp [hie], hpending⟩)
  | some i =>
    obtain ⟨hi, hlow⟩ := lineToTake?_spec hl
    exact ⟨i, hi, hlow, step_entry hrun hl⟩

/-! ### Interrupt entry (60_exceptions.md R245-R249) -/

theorem lineBit_eq_shiftLeft (i : Fin 8) : lineBit i = (1 : Byte) <<< i.val := by
  revert i
  decide

/-- The bytes that the nine pushes of an entry stack, the first of them at SP - 1 (60_exceptions.md R246). -/
def stackedBytes (c : State) : Fin 9 → Byte :=
  ![c.pc, c.fl, c.reg .r0, c.reg .r1, c.reg .r2, c.reg .r3, c.reg .r4, c.reg .r5, c.reg .r6]

theorem memRead_entryPushed_stacked {c : State} (hwf : Memory.wf c.mem = true) (k : Fin 9) :
    (entryPushed c).memRead (c.sp - BitVec.ofNat 8 (k.val + 1)) = stackedBytes c k := by
  rw [memRead_entryPushed _ hwf]
  fin_cases k <;> simp [stackedBytes]

theorem memRead_entryPushed_other {c : State} (hwf : Memory.wf c.mem = true) {x : Byte}
    (hx : ∀ k : Fin 9, x ≠ c.sp - BitVec.ofNat 8 (k.val + 1)) : (entryPushed c).memRead x = c.memRead x := by
  rw [memRead_entryPushed x hwf]
  exact (if_neg (hx 8)).trans <| (if_neg (hx 7)).trans <| (if_neg (hx 6)).trans <| (if_neg (hx 5)).trans <|
    (if_neg (hx 4)).trans <| (if_neg (hx 3)).trans <| (if_neg (hx 2)).trans <| (if_neg (hx 1)).trans <| if_neg (hx 0)

theorem reg_interruptEntry (i : Fin 8) (s : State) {r : Reg} (h : r ≠ .r7) :
    (s.interruptEntry i).reg r = (entryCleared i s).reg r := by
  rw [interruptEntry_eq, reg_setPc, reg_entryPushed h]

theorem sp_interruptEntry (i : Fin 8) {s : State} (h : s.cfg.isIdx ≠ .r7) : (s.interruptEntry i).sp = s.sp - 9 := by
  rw [interruptEntry_eq, sp_setPc, sp_entryPushed, sp_entryCleared i h]

/-- PC after an entry is read from the vector table as memory is after the pushes (60_exceptions.md R247). -/
theorem pc_interruptEntry (i : Fin 8) (s : State) :
    (s.interruptEntry i).pc = (s.interruptEntry i).memRead (s.cfg.vtBase + BitVec.ofNat 8 i.val) := by
  rw [interruptEntry_eq, setPc_pc, memRead_setPc]

theorem memRead_interruptEntry_stacked (i : Fin 8) {s : State} (hwf : Memory.wf s.mem = true) (h : s.cfg.isIdx ≠ .r7)
    (k : Fin 9) :
    (s.interruptEntry i).memRead (s.sp - BitVec.ofNat 8 (k.val + 1)) = stackedBytes (entryCleared i s) k := by
  rw [interruptEntry_eq, memRead_setPc, ← sp_entryCleared i h, memRead_entryPushed_stacked (c := entryCleared i s) hwf]

theorem memRead_interruptEntry_other (i : Fin 8) {s : State} (hwf : Memory.wf s.mem = true) (h : s.cfg.isIdx ≠ .r7)
    {x : Byte} (hx : ∀ k : Fin 9, x ≠ s.sp - BitVec.ofNat 8 (k.val + 1)) :
    (s.interruptEntry i).memRead x = s.memRead x := by
  rw [← sp_entryCleared i h] at hx
  rw [interruptEntry_eq, memRead_setPc, memRead_entryPushed_other (c := entryCleared i s) hwf hx, memRead_entryCleared]

/-- Settles O40: the tick is the entry of the line, the saved values are the registers once the line's IS bit is cleared, and
each stacked byte is one of the nine pushes'. -/
theorem interruptEntrySavesContext : Obligations.InterruptEntrySavesContext := by
  unfold Obligations.InterruptEntrySavesContext
  intro s i hrun hie hi hlow hwf hidx
  have hstacked := memRead_interruptEntry_stacked (s := s.setPcset false) i hwf hidx
  refine ⟨(s.setPcset false).interruptEntry i, (entryCleared i s).reg, ?_, ?_, rfl, ?_, ?_, hstacked 0, hstacked 1,
    hstacked 2, hstacked 3, hstacked 4, hstacked 5, hstacked 6, hstacked 7, hstacked 8, ?_, ?_, rfl, rfl, rfl, rfl, rfl, rfl,
    hrun, rfl, rfl, rfl⟩
  · exact step_entry hrun (lineToTake?_eq hie hi hlow)
  · exact fun r => lineBit_eq_shiftLeft i ▸ reg_entryCleared r i s
  · exact fun r hr => reg_interruptEntry i (s.setPcset false) hr
  · exact sp_interruptEntry (s := s.setPcset false) i hidx
  · exact fun x hx => memRead_interruptEntry_other (s := s.setPcset false) i hwf hidx hx
  · exact pc_interruptEntry i (s.setPcset false)

end Sys2Proof.Machine

namespace Sys2Proof.Machine
/-! Moves (60_exceptions.md R250, R251; 70_reset_and_hazards.md R292): every list of moves ends in a next state, and one
induction over a list of moves for all the statements about schedules. -/

/-! ### Every move ends in a next state -/

theorem step_eq_next (s : State) : ∃ t, step s = .next t := by
  by_cases hhalted : s.halted = true
  · exact ⟨s, step_halted hhalted⟩
  · have hrun : s.halted = false := by simpa using hhalted
    cases hl : s.lineToTake? with
    | some i => exact ⟨_, step_entry hrun hl⟩
    | none =>
      obtain ⟨u, -, hstep⟩ := step_of_no_line hrun hl
      exact ⟨_, hstep⟩

theorem move_eq_next (m : Move) (s : State) : ∃ t, move m s = .next t := by
  cases m with
  | tick => exact step_eq_next s
  | raise i => exact ⟨_, rfl⟩
  | key k => exact ⟨_, rfl⟩

theorem raiseLine_of_running {s : State} (h : s.halted = false) (i : Fin 8) :
    s.raiseLine i = s.setIs (s.is ||| lineBit i) := by
  simp [State.raiseLine, h]

theorem keyPress_of_running {s : State} (h : s.halted = false) (k : Byte) :
    s.keyPress k = (s.memWrite s.cfg.keyAddr k).raiseLine 1 := by
  simp [State.keyPress, h]

theorem runMoves_cons {m : Move} {s u : State} (h : move m s = .next u) (ms : List Move) :
    runMoves (m :: ms) s = runMoves ms u := by
  simp only [runMoves, h]

/-- A run over a first move and more is that move, which ends in a next state, and the run from there. -/
theorem runMoves_cons_cases {m : Move} {ms : List Move} {s t : State} (h : runMoves (m :: ms) s = .next t) :
    ∃ u, move m s = .next u ∧ runMoves ms u = .next t := by
  obtain ⟨u, hu⟩ := move_eq_next m s
  exact ⟨u, hu, (runMoves_cons hu ms).symm.trans h⟩

theorem runMoves_eq_next (ms : List Move) (s : State) : ∃ t, runMoves ms s = .next t := by
  induction ms generalizing s with
  | nil => exact ⟨s, rfl⟩
  | cons m ms ih =>
    obtain ⟨u, hu⟩ := move_eq_next m s
    exact runMoves_cons hu ms ▸ ih u

/-- What every move keeps, every list of moves keeps. -/
theorem runMoves_keeps {P : State → Prop} (hmove : ∀ {m s t}, P s → move m s = .next t → P t) {ms : List Move}
    {s t : State} (hs : P s) (h : runMoves ms s = .next t) : P t := by
  induction ms generalizing s with
  | nil => exact Host.Outcome.next.inj h ▸ hs
  | cons m ms ih =>
    obtain ⟨u, hu, hrest⟩ := runMoves_cons_cases h
    exact ih (hmove hs hu) hrest

/-- Settles O11: every arm of `exec` and every move ends in a next state, so a list of moves never stops early. -/
theorem everyMoveEndsInANextState : Obligations.EveryMoveEndsInANextState := by
  unfold Obligations.EveryMoveEndsInANextState
  exact ⟨exec_eq_next, runMoves_eq_next⟩

end Sys2Proof.Machine

namespace Sys2Proof.Machine
/-! The invariant (10_state.md R32, 20_memory.md R50, 60_exceptions.md R241, R242): an instruction, a tick, a raise and a
key press keep it, and the reset state and every loaded image have it. -/

/-! ### Memory stays canonical -/

theorem wf_exec {i : Instr} {s t : State} (hwf : Memory.wf s.mem = true) (h : exec i s = .next t) :
    Memory.wf t.mem = true := by
  cases effect_of_exec h with
  | store | callTo | pushReg => exact Memory.wf_memStore _ _ hwf
  | interruptReturn => rwa [interruptReturn_mem]
  | _ => exact hwf

theorem wf_interruptEntry (i : Fin 8) {s : State} (hwf : Memory.wf s.mem = true) :
    Memory.wf (s.interruptEntry i).mem = true := by
  rw [interruptEntry_eq, setPc_mem]
  exact wf_entryPushed (c := entryCleared i s) hwf

/-! ### The halt state agrees with itself -/

/-- The record of an instruction that halts is of its halt's reason and holds the PC and IR of the state it halts in
(60_exceptions.md R242). -/
theorem haltRecord_spec {i : Instr} {s : State} (hhalts : haltsWith i s ≠ .none) :
    (haltRecord i s).reason = haltsWith i s ∧ (haltRecord i s).pcAndIr = some (s.pc, s.ir) := by
  obtain ⟨t, h⟩ := exec_eq_next i s
  cases effect_of_exec h with
  | badRegister bad => simp [haltRecord_of_illFormed bad, haltsWith_of_illFormed bad, HaltInfo.reason, HaltInfo.pcAndIr]
  | stop => exact ⟨rfl, rfl⟩
  | returnFrom | interruptReturn => exact absurd rfl hhalts
  | divideByZero _ zero op =>
    cases i with
    | div | mod | divi | modi => simp [haltRecord, zero, HaltInfo.reason, HaltInfo.pcAndIr]
    | _ => simp [Instr.op] at op
  | _ => exact absurd ‹haltsWith i s = .none› hhalts

/-- A running core whose halt state is left alone keeps the invariant as long as memory stays canonical. -/
theorem Inv.of_same_haltState {s t : State} (hs : Inv s) (hrun : s.halted = false) (hwf : Memory.wf t.mem = true)
    (hsame : t.halted = s.halted ∧ t.haltReason = s.haltReason ∧ t.haltInfo = s.haltInfo) : Inv t := by
  obtain ⟨hhalted, hreason, hinfo⟩ := hsame
  exact ⟨hwf, hhalted ▸ hreason ▸ hs.halted, hreason ▸ hinfo ▸ hs.record,
    fun h => absurd (h.symm.trans (hhalted.trans hrun)) (by decide)⟩

theorem Inv.halt {i : Instr} {s : State} (hs : Inv s) (hhalts : haltsWith i s ≠ .none) :
    Inv (s.halt (haltsWith i s) (haltRecord i s)) := by
  obtain ⟨hreason, hplace⟩ := haltRecord_spec hhalts
  exact ⟨hs.memory, iff_of_true rfl hhalts, hreason, fun _ => hplace⟩

/-! ### Instructions, ticks and the environment keep the invariant -/

theorem Inv.exec {i : Instr} {s t : State} (hs : Inv s) (hrun : s.halted = false) (h : exec i s = .next t) : Inv t := by
  by_cases hhalts : haltsWith i s = .none
  · exact hs.of_same_haltState hrun (wf_exec hs.memory h) (exec_leaves_haltState h hhalts)
  · exact exec_eq_halt h hhalts ▸ hs.halt hhalts

theorem Inv.execute {s t : State} (hs : Inv s) (hrun : s.halted = false) (h : s.execute = .next t) : Inv t := by
  rcases execute_cases h with ⟨-, rfl⟩ | ⟨i, -, he⟩
  · exact hs
  · exact hs.exec hrun he

theorem Inv.advance {s : State} (hs : Inv s) : Inv s.advance := by
  rcases advance_cases s with ⟨h, -⟩ | ⟨h, hrun, -⟩
  · exact h.symm ▸ hs
  · exact h ▸ hs.of_same_haltState hrun hs.memory ⟨rfl, rfl, rfl⟩

theorem Inv.step {s t : State} (hs : Inv s) (h : step s = .next t) : Inv t := by
  cases hrun : s.halted with
  | true => exact Host.Outcome.next.inj ((step_halted hrun).symm.trans h) ▸ hs
  | false =>
    rcases step_cases hrun h with ⟨i, -, rfl⟩ | ⟨-, u, hu, rfl⟩
    · exact hs.of_same_haltState hrun (wf_interruptEntry (s := s.setPcset false) i hs.memory) ⟨rfl, rfl, rfl⟩
    · have hfetched : Inv s.fetched := hs.of_same_haltState hrun hs.memory ⟨rfl, rfl, rfl⟩
      exact (hfetched.execute hrun hu).advance

/-- Settles O49: a halted core stays as it is; a running one enters an interrupt, which leaves the halt state alone, or
runs an instruction, which leaves it alone or writes all of it. -/
theorem stepKeepsInvariant : Obligations.StepKeepsInvariant := by
  unfold Obligations.StepKeepsInvariant
  exact fun _ _ => Inv.step

theorem Inv.raiseLine {s : State} (hs : Inv s) (i : Fin 8) : Inv (s.raiseLine i) := by
  cases hrun : s.halted with
  | true => rwa [raiseLine_of_halted hrun]
  | false =>
    rw [raiseLine_of_running hrun]
    exact hs.of_same_haltState hrun hs.memory ⟨rfl, rfl, rfl⟩

theorem Inv.keyPress {s : State} (hs : Inv s) (k : Byte) : Inv (s.keyPress k) := by
  cases hrun : s.halted with
  | true => rwa [keyPress_of_halted hrun]
  | false =>
    rw [keyPress_of_running hrun]
    exact (hs.of_same_haltState (t := s.memWrite s.cfg.keyAddr k) hrun (Memory.wf_memStore _ _ hs.memory)
      ⟨rfl, rfl, rfl⟩).raiseLine 1

theorem Inv.move {m : Move} {s t : State} (hs : Inv s) (h : move m s = .next t) : Inv t := by
  cases m with
  | tick => exact hs.step h
  | raise i => exact Host.Outcome.next.inj h ▸ hs.raiseLine i
  | key k => exact Host.Outcome.next.inj h ▸ hs.keyPress k

/-- Settles O50: a tick, a raise and a key press each keep the invariant, and so does any list of them. -/
theorem everyScheduleKeepsInvariant : Obligations.EveryScheduleKeepsInvariant := by
  unfold Obligations.EveryScheduleKeepsInvariant
  exact fun _ _ _ => runMoves_keeps Inv.move

end Sys2Proof.Machine

namespace Sys2Proof.Machine
/-! Memory as a whole (20_memory.md R50): what a canonical memory reads as determines it, and an image stored byte by byte
(70_reset_and_hazards.md R285). -/

/-! ### The latest write -/

/-- Settles O47: the two cases of a read after a write, and that a write keeps the canonical form. -/
theorem memoryReadsTheLatestWrite : Obligations.MemoryReadsTheLatestWrite := by
  unfold Obligations.MemoryReadsTheLatestWrite
  exact fun s a v hwf =>
    ⟨memRead_memWrite_same a v hwf, fun x hx => memRead_memWrite_other v s hx, Memory.wf_memStore a v hwf⟩

/-! ### A canonical memory is determined by its reads -/

theorem memCanonicalFrom_cons {low c : Nat} {w : Byte} {m : List Host.Cell} :
    memCanonicalFrom low ((c, w) :: m) = true ↔
      low ≤ c ∧ c < 256 ∧ w ≠ memDefault ∧ memCanonicalFrom (c + 1) m = true := by
  simp [memCanonicalFrom, and_assoc]

/-- From 256 on a canonical memory reads as memory that nothing has written. -/
theorem memLookup_above {low a : Nat} {m : List Host.Cell} (h : memCanonicalFrom low m = true) (ha : 256 ≤ a) :
    memLookup m a = memDefault := by
  induction m generalizing low with
  | nil => rfl
  | cons cell m ih =>
    obtain ⟨c, w⟩ := cell
    obtain ⟨-, hc, -, hm⟩ := memCanonicalFrom_cons.mp h
    rw [memLookup, if_neg (by omega), ih hm]

theorem memLookup_cons_self (c : Nat) (w : Byte) (m : List Host.Cell) : memLookup ((c, w) :: m) c = w := by
  rw [memLookup, if_pos rfl]

/-- A canonical memory that reads at `c` as another's first cell there begins at or below `c`. -/
theorem le_of_memLookup_eq {low c c' : Nat} {w w' : Byte} {m n : List Host.Cell} (hw : w ≠ memDefault)
    (hn : memCanonicalFrom low ((c', w') :: n) = true)
    (h : memLookup ((c, w) :: m) c = memLookup ((c', w') :: n) c) : c' ≤ c := by
  obtain ⟨-, -, -, hrest⟩ := memCanonicalFrom_cons.mp hn
  by_contra hlt
  rw [memLookup_cons_self, memLookup, if_neg (by omega), memLookup_below hrest (by omega)] at h
  exact hw h

/-- Canonical memories that read alike at every address are equal: their first cells agree, and so their rests read alike.
-/
theorem eq_of_memLookup_eq {low low' : Nat} {m n : List Host.Cell} (hm : memCanonicalFrom low m = true)
    (hn : memCanonicalFrom low' n = true) (h : ∀ a, memLookup m a = memLookup n a) : m = n := by
  induction m generalizing low low' n with
  | nil =>
    cases n with
    | nil => rfl
    | cons cell n =>
      obtain ⟨c, w⟩ := cell
      obtain ⟨-, -, hw, -⟩ := memCanonicalFrom_cons.mp hn
      exact absurd ((memLookup_cons_self c w n).symm.trans (h c).symm) hw
  | cons cell m ih =>
    obtain ⟨c, w⟩ := cell
    obtain ⟨-, -, hw, hm'⟩ := memCanonicalFrom_cons.mp hm
    cases n with
    | nil => exact absurd ((memLookup_cons_self c w m).symm.trans (h c)) hw
    | cons cell' n =>
      obtain ⟨c', w'⟩ := cell'
      obtain ⟨-, hc', hw', hn'⟩ := memCanonicalFrom_cons.mp hn
      obtain rfl : c = c' := Nat.le_antisymm (le_of_memLookup_eq hw' hm (h c').symm) (le_of_memLookup_eq hw hn (h c))
      obtain rfl : w = w' := by simpa only [memLookup_cons_self] using h c
      have hrest : ∀ a, memLookup m a = memLookup n a := fun a => by
        by_cases ha : c = a
        · rw [← ha, memLookup_below hm' (by omega), memLookup_below hn' (by omega)]
        · simpa only [memLookup, if_neg ha] using h a
      rw [ih hm' hn' hrest]

/-- Settles O48: the reads at the 256 addresses are all the reads there are, and the first cells decide the lists. -/
theorem canonicalMemoryIsDeterminedByReads : Obligations.CanonicalMemoryIsDeterminedByReads := by
  unfold Obligations.CanonicalMemoryIsDeterminedByReads
  intro s t hs ht hreads
  refine eq_of_memLookup_eq hs ht fun a => ?_
  by_cases ha : a < 256
  · have := hreads (BitVec.ofNat 8 a)
    rwa [State.memRead, State.memRead, BitVec.toNat_ofNat, Nat.mod_eq_of_lt ha] at this
  · rw [memLookup_above hs (by omega), memLookup_above ht (by omega)]

/-! ### An image in memory -/

theorem storeImage_canonical {vs : List Byte} {a : Nat} {m : List Host.Cell} (hm : Memory.wf m = true)
    (hlen : a + vs.length ≤ 256) : Memory.wf (storeImage vs a m) = true := by
  induction vs generalizing a m with
  | nil => exact hm
  | cons v vs ih =>
    rw [List.length_cons] at hlen
    exact ih (memStore_canonical v hm (Nat.zero_le a) (by omega)) (by omega)

/-- Below the image's first address memory reads as before. -/
theorem memLookup_storeImage_below {vs : List Byte} {a x : Nat} (m : List Host.Cell) (hx : x < a) :
    memLookup (storeImage vs a m) x = memLookup m x := by
  induction vs generalizing a m with
  | nil => rfl
  | cons v vs ih => rw [storeImage, ih _ (by omega), memLookup_memStore_other m v (by omega)]

/-- From the image's first address `a` on, the address `a + j` reads as byte `j` of the image, and as before past its end.
-/
theorem memLookup_storeImage {vs : List Byte} {a : Nat} {m : List Host.Cell} (hm : Memory.wf m = true)
    (hlen : a + vs.length ≤ 256) (j : Nat) :
    memLookup (storeImage vs a m) (a + j) = vs[j]?.getD (memLookup m (a + j)) := by
  induction vs generalizing a m j with
  | nil => rfl
  | cons v vs ih =>
    rw [List.length_cons] at hlen
    cases j with
    | zero =>
      rw [storeImage, memLookup_storeImage_below _ (by omega)]
      exact memLookup_memStore_same v hm
    | succ j =>
      rw [storeImage, show a + (j + 1) = a + 1 + j by omega,
        ih (memStore_canonical v hm (Nat.zero_le a) (by omega)) (by omega), memLookup_memStore_other m v (by omega),
        List.getElem?_cons_succ]

/-- Settles O54: the image is stored from address 0 on, in memory that reads 0x00. -/
theorem loadedImageIsInMemory : Obligations.LoadedImageIsInMemory := by
  unfold Obligations.LoadedImageIsInMemory
  intro c image hlen a
  have h := memLookup_storeImage (m := []) rfl (show 0 + image.length ≤ 256 by omega) a.toNat
  rwa [Nat.zero_add] at h

theorem inv_resetWith (c : Config) : Inv (State.resetWith c) :=
  ⟨rfl, iff_of_false Bool.false_ne_true fun h => h rfl, rfl, fun h => absurd h Bool.false_ne_true⟩

/-- Settles O51: the core at reset is not halted, and loading changes its memory only. -/
theorem resetAndBootMeetInvariant : Obligations.ResetAndBootMeetInvariant := by
  unfold Obligations.ResetAndBootMeetInvariant
  intro c image hlen
  refine ⟨inv_resetWith c, (inv_resetWith c).of_same_haltState rfl ?_ ⟨rfl, rfl, rfl⟩⟩
  exact storeImage_canonical rfl (by omega)

end Sys2Proof.Machine

namespace Sys2Proof
/-! The decoder and the encoder (30_encoding.md R71-R86): both round trips, what a valid opcode map is, and the length of an
instruction. -/

/-! ### Decoding -/

theorem Op.operands_instr (o : Op) (opa opb : Byte) :
    (o.instr opa opb).operands = [opa, opb].take o.format.operandCount := by cases o <;> rfl

/-- What the decoder answers on an instruction: its opcode byte selects its operation, the count bits agree with the
format, and the bytes are the opcode byte, the operand bytes and the rest (30_encoding.md R71, R75). -/
theorem decodeWith_eq_instr {m : OpcodeMap} {bytes : List Byte} {i : Instr} {rest : List Byte}
    (h : decodeWith m bytes = .instr i rest) :
    ∃ opcode, m.opOf? opcode = some i.op ∧ i.op.format.operandCount = operandCount opcode ∧
      bytes = opcode :: (i.operands ++ rest) := by
  cases bytes with
  | nil => cases h
  | cons opcode bytes =>
    rw [decodeWith] at h
    split at h
    · cases h
    next o ho =>
      split at h
      next hcount =>
        have hread : ∃ opa opb, i = o.instr opa opb ∧ bytes = [opa, opb].take o.format.operandCount ++ rest := by
          split at h
          next hn =>
            cases h
            exact ⟨0, 0, rfl, by rw [hn]; rfl⟩
          next opa _ hn =>
            cases h
            exact ⟨opa, 0, rfl, by rw [hn]; rfl⟩
          next opa opb _ hn =>
            cases h
            exact ⟨opa, opb, rfl, by rw [hn]; rfl⟩
          · cases h
        obtain ⟨opa, opb, rfl, rfl⟩ := hread
        exact ⟨opcode, by rw [Op.op_instr, ho], by rwa [Op.op_instr], by rw [Op.operands_instr]⟩
      · cases h

/-- The decoder reads an instruction back from an opcode byte that selects it and its operand bytes. -/
theorem decodeWith_cons_operands {m : OpcodeMap} {opcode : Byte} {i : Instr} (ho : m.opOf? opcode = some i.op)
    (hcount : i.op.format.operandCount = operandCount opcode) (rest : List Byte) :
    decodeWith m (opcode :: (i.operands ++ rest)) = .instr i rest := by
  simp only [decodeWith, ho, if_pos hcount]
  cases i <;> rfl

/-- Settles O1: under a valid map the opcode byte of an instruction selects it and has the count of its format. -/
theorem decodeUndoesEncode : Obligations.DecodeUndoesEncode := by
  unfold Obligations.DecodeUndoesEncode
  intro m i rest hv
  exact decodeWith_cons_operands (OpcodeMap.opOf?_byte hv i.op) (OpcodeMap.valid_count hv i.op).symm rest

/-- Settles O2: the bytes decoded are the opcode byte, which is the one the map gives the operation, the operand bytes and
the rest. -/
theorem encodeUndoesDecode : Obligations.EncodeUndoesDecode := by
  unfold Obligations.EncodeUndoesDecode
  intro m bytes i rest h
  obtain ⟨opcode, ho, -, rfl⟩ := decodeWith_eq_instr h
  rw [encodeWith, OpcodeMap.byte_of_opOf? ho, List.cons_append]

/-- Settles O3, by running the decoder on the words. -/
theorem defaultMapWordsDecode : Obligations.DefaultMapWordsDecode := by
  unfold Obligations.DefaultMapWordsDecode
  decide

/-! ### Valid maps and lengths -/

/-- The operand count is bits 7:6 (30_encoding.md R72). -/
theorem operandCount_eq_toNat_extractLsb' (b : Byte) : operandCount b = (b.extractLsb' 6 2).toNat := by
  have := b.isLt
  rw [operandCount, BitVec.extractLsb'_toNat, Nat.shiftRight_eq_div_pow]
  omega

theorem operandCount_eq_iff {b : Byte} {n : Nat} (hn : n < 4) :
    operandCount b = n ↔ b.extractLsb' 6 2 = BitVec.ofNat 2 n := by
  rw [operandCount_eq_toNat_extractLsb', ← BitVec.toNat_inj, BitVec.toNat_ofNat, Nat.mod_eq_of_lt hn]

/-- The instruction's operation is the one that its opcode byte selects, whatever the latches hold (30_encoding.md R81
(c)). -/
theorem dispatch_map_op (m : OpcodeMap) (ir opa opb : Byte) : (dispatch m ir opa opb).map Instr.op = m.opOf? ir := by
  simp [dispatch, Option.map_map, Function.comp_def, Op.op_instr]

/-- Settles O4: the count clause of `valid` read as bits 7:6; the dispatcher's operation does not depend on the latches. -/
theorem validMapsMeetTheConstraints : Obligations.ValidMapsMeetTheConstraints := by
  unfold Obligations.ValidMapsMeetTheConstraints
  refine ⟨fun m => ?_, fun m ir a b a' b' => by rw [dispatch_map_op, dispatch_map_op], defaultOpc_valid⟩
  have hcount (o : Op) : operandCount (m.byte o) = o.format.operandCount ↔
      (m.byte o).extractLsb' 6 2 = BitVec.ofNat 2 o.format.operandCount :=
    operandCount_eq_iff (Nat.lt_of_le_of_lt (Op.format_operandCount_le o) (by decide))
  rw [OpcodeMap.valid_iff, and_comm, forall_congr' hcount]

/-- Under a valid map an opcode byte that selects an operation asks for at most two operand bytes. -/
theorem OpcodeMap.operandCount_le_of_opOf? {m : OpcodeMap} (hv : m.valid = true) {b : Byte} {o : Op}
    (h : m.opOf? b = some o) : operandCount b ≤ 2 :=
  OpcodeMap.byte_of_opOf? h ▸ OpcodeMap.valid_count hv o ▸ Op.format_operandCount_le o

/-- Settles O5: the count bits of an encoded instruction are its number of operand bytes, which no format has three of. -/
theorem lengthFromOpcodeBits : Obligations.LengthFromOpcodeBits := by
  unfold Obligations.LengthFromOpcodeBits
  refine ⟨fun b => ⟨operandCount_eq_toNat_extractLsb' b, by rw [instrLength, operandCount_eq_toNat_extractLsb']⟩, ?_, ?_⟩
  · exact fun m i hv => (Machine.instrLength_byte_op hv i).symm
  · intro m b hv hthree
    rw [Option.eq_none_iff_forall_ne_some]
    intro o ho
    have hle := OpcodeMap.operandCount_le_of_opOf? hv ho
    rw [operandCount_eq_toNat_extractLsb', hthree] at hle
    exact absurd hle (by decide)

end Sys2Proof

namespace Sys2Proof.Machine
/-! The tick runs the instruction that the bytes at PC decode to (30_encoding.md R70, R75, R76). -/

theorem take_bytesFrom (s : State) (a : Byte) {k n : Nat} (h : k ≤ n) :
    (s.bytesFrom a n).take k = s.bytesFrom a k := by
  rw [State.bytesFrom, State.bytesFrom, ← List.map_take, List.take_range, Nat.min_eq_left h]

/-- The dispatcher finds the instruction that the bytes at PC decode to, under any map (30_encoding.md R75). -/
theorem dispatch_of_decodeWith {s : State} {i : Instr} {rest : List Byte}
    (h : decodeWith s.cfg.opc (s.bytesFrom s.pc 4) = .instr i rest) :
    dispatch s.fetched.cfg.opc s.fetched.ir s.fetched.opa s.fetched.opb = some i := by
  obtain ⟨opcode, ho, hcount, hbytes⟩ := decodeWith_eq_instr h
  rw [bytesFrom_succ, List.cons.injEq] at hbytes
  obtain ⟨rfl, hoperands⟩ := hbytes
  have hle : operandCount (s.memRead s.pc) ≤ 2 := hcount ▸ Op.format_operandCount_le i.op
  have hlatches : [s.fetched.opa, s.fetched.opb].take i.op.format.operandCount = i.operands := by
    calc [s.fetched.opa, s.fetched.opb].take i.op.format.operandCount
        = s.fetched.operandBytes := by rw [hcount]; rfl
      _ = (s.bytesFrom (s.pc + 1) 3).take (operandCount (s.memRead s.pc)) := by
          rw [operandBytes_fetched hle, take_bytesFrom s _ (by omega)]
      _ = i.operands := by rw [hoperands, List.take_left' (by rw [Instr.length_operands, hcount])]
  rw [fetched_cfg, fetched_ir, dispatch_of_opOf? ho, Instr.instr_op_of_operands hlatches]

theorem advance_eq_ite (s : State) :
    s.advance =
      if s.halted = false ∧ s.pcset = false then { s with pc := s.pc + 1 + BitVec.ofNat 8 (operandCount s.ir) }
      else s := by
  rcases advance_cases s with ⟨h, hstay⟩ | ⟨h, hrun, hpcset⟩
  · rw [h, if_neg]
    rcases hstay with hs | hs <;> simp [hs]
  · rw [h, if_pos ⟨hrun, hpcset⟩, instrLength, add_ofNat_one_add]
    rfl

theorem exec_latches {i : Instr} {s t : State} (h : exec i s = .next t) :
    t.ir = s.ir ∧ t.opa = s.opa ∧ t.opb = s.opb ∧ t.cfg = s.cfg := by
  cases effect_of_exec h with
  | interruptReturn => simp
  | _ => exact ⟨rfl, rfl, rfl, rfl⟩

/-- Settles O8: the dispatcher runs the decoded instruction on the fetched state, and no instruction writes IR, from which
the advance takes the length. -/
theorem stepRunsDecodedInstruction : Obligations.StepRunsDecodedInstruction := by
  unfold Obligations.StepRunsDecodedInstruction
  intro s i rest hrun hint hdecode
  obtain ⟨t, ht⟩ := exec_eq_next i s.fetched
  obtain ⟨hir, -⟩ := exec_latches ht
  have hexecute : s.fetched.execute = .next t := (execute_some (dispatch_of_decodeWith hdecode)).trans ht
  refine ⟨t, ht, ?_⟩
  rw [step_fetch hrun ((lineToTake?_none_iff s).mpr hint) hexecute, advance_eq_ite, hir, fetched_ir]

end Sys2Proof.Machine

namespace Sys2Proof.Machine
/-! What an instruction may write (10_state.md R26-R35, 20_memory.md R51, 30_encoding.md R77): frames for registers,
flags, OUT and memory, and which instructions set PCSET. -/

/-! ### Registers -/

theorem ne_of_writesReg {i : Instr} {q r : Reg} (hq : writesReg i q = true) (hr : writesReg i r = false) : r ≠ q :=
  fun e => absurd (hr.symm.trans (e ▸ hq)) Bool.false_ne_true

/-- The stack instructions write SP (43_stack.md R190, R191). -/
theorem writesReg_r7_of_stack {i : Instr} (h : i.op ∈ [.ret, .call, .calli, .pop, .push]) : writesReg i .r7 = true := by
  cases i with
  | ret | call | calli | pop | push => rfl
  | _ => simp [Instr.op] at h

theorem exec_reg {i : Instr} {s t : State} {r : Reg} (h : exec i s = .next t) (hr : writesReg i r = false) :
    t.reg r = s.reg r := by
  have hsp (hstack : i.op ∈ [.ret, .call, .calli, .pop, .push]) : r ≠ .r7 :=
    ne_of_writesReg (writesReg_r7_of_stack hstack) hr
  cases effect_of_exec h with
  | writeReg q v _ dest => exact reg_setReg_other v s (ne_of_writesReg dest hr)
  | callTo _ _ _ op => exact reg_push_other s.returnAddress s (hsp ((show ∀ o ∈ _, o ∈ _ by decide) _ op))
  | pushReg _ _ _ op => exact reg_push_other _ s (hsp (by simp [op]))
  | popReg q _ _ op dest => rw [reg_popInto, if_neg (ne_of_writesReg dest hr), if_neg (hsp (by simp [op]))]
  | returnFrom => exact reg_setReg_other _ s (hsp (by simp [Instr.op]))
  | interruptReturn => cases hr
  | _ => rfl

/-! ### FL, OUT and memory -/

theorem exec_fl {i : Instr} {s t : State} (h : exec i s = .next t) (hi : writesFl i = false) : t.fl = s.fl := by
  cases effect_of_exec h with
  | compare _ _ _ _ op => simp_all [writesFl]
  | interruptReturn => cases hi
  | _ => rfl

theorem exec_out {i : Instr} {s t : State} (h : exec i s = .next t) (hi : sendsEvent i = false) : t.out = s.out := by
  cases effect_of_exec h with
  | send _ _ _ op => simp_all [sendsEvent]
  | interruptReturn => exact interruptReturn_out s
  | _ => rfl

/-- Settles O36: the registers, FL, IE, OUT and the latches, each by the shapes of next state that write it. -/
theorem registerAndFlagFrame : Obligations.RegisterAndFlagFrame := by
  unfold Obligations.RegisterAndFlagFrame
  exact fun i s t h => ⟨fun r => exec_reg h, exec_fl h, fun hi => exec_ie hi h, exec_out h, exec_latches h⟩

/-- Settles O37: ST, PUSH, CALL and CALLI store at the address `storesAt` names, and no other shape of next state changes
memory. -/
theorem memoryFrame : Obligations.MemoryFrame := by
  unfold Obligations.MemoryFrame
  intro i s t h x hx
  have hne {a : Byte} (place : storesAt i s = some a) : x ≠ a := fun e => hx (e ▸ place)
  cases effect_of_exec h with
  | store a v _ _ _ place => exact memRead_memWrite_other v s (hne place)
  | callTo _ _ _ _ place => exact memRead_push_other _ s (hne place)
  | pushReg v _ _ _ place => exact memRead_push_other v s (hne place)
  | interruptReturn => rw [State.memRead, interruptReturn_mem, State.memRead]
  | _ => rfl

/-! ### PCSET (30_encoding.md R77) -/

theorem transfersControl_eq_false {i : Instr}
    (h : i.op ∉ [.jmp, .jmpi, .call, .calli, .ret, .iret, .jeq, .jne, .jgt, .jlt]) (fl : Byte) :
    transfersControl i fl = false := by
  cases i with
  | jmp | jmpi | call | calli | ret | iret | jeq | jne | jgt | jlt => simp [Instr.op] at h
  | _ => rfl

/-- Settles O10: the jumps that are taken, the calls and the returns set PCSET; the other shapes of next state leave PCSET
and PC alone and belong to no control transfer. -/
theorem transfersSetPcset : Obligations.TransfersSetPcset := by
  unfold Obligations.TransfersSetPcset
  intro i s t ok hclear h
  have htransfer (hset : transfersControl i s.fl = true) (ht : t.pcset = true) :
      t.pcset = transfersControl i s.fl ∧ (transfersControl i s.fl = false → t.pc = s.pc) :=
    ⟨ht.trans hset.symm, fun hno => absurd (hno.symm.trans hset) Bool.false_ne_true⟩
  have hstay (hno : i.op ∉ [.jmp, .jmpi, .call, .calli, .ret, .iret, .jeq, .jne, .jgt, .jlt])
      (ht : t.pcset = s.pcset) (hpc : t.pc = s.pc) :
      t.pcset = transfersControl i s.fl ∧ (transfersControl i s.fl = false → t.pc = s.pc) :=
    ⟨ht.trans (hclear.trans (transfersControl_eq_false hno s.fl).symm), fun _ => hpc⟩
  cases effect_of_exec h with
  | badRegister bad => exact absurd (bad.symm.trans ok) Bool.false_ne_true
  | jump _ _ _ _ taken => exact htransfer taken rfl
  | callTo _ _ _ op =>
    refine htransfer ?_ rfl
    cases i with
    | call | calli => rfl
    | _ => simp [Instr.op] at op
  | returnFrom => exact htransfer rfl rfl
  | interruptReturn => exact htransfer rfl (interruptReturn_pcset s)
  | passOver _ _ _ untaken => exact ⟨hclear.trans untaken.symm, fun _ => rfl⟩
  | stop => exact hstay (by decide) rfl rfl
  | store _ _ _ _ op | pushReg _ _ _ op | popReg _ _ _ op => exact hstay (by rw [op]; decide) rfl rfl
  | writeReg _ _ _ _ _ op | compare _ _ _ _ op | send _ _ _ op | divideByZero _ _ op =>
    exact hstay ((show ∀ o ∈ _, o ∉ _ by decide) _ op) rfl rfl

end Sys2Proof.Machine

namespace Sys2Proof.Machine
/-! Comparisons and conditional jumps (10_state.md R27, 42_control.md R165-R168), and the pairs that undo one another:
PUSH and pop (43_stack.md R193), a call and RET (42_control.md R161, R170-R172). -/

/-! ### Comparisons -/

theorem compareFlags_mem (x y : Byte) : compareFlags x y ∈ [(1 : Byte), 2, 4] := by
  unfold compareFlags
  split
  · decide
  · split <;> decide

theorem exec_compare {i : Instr} {s t : State} (hi : i.op = .cmp ∨ i.op = .cmpi) (ok : i.wellFormed = true)
    (h : exec i s = .next t) : ∃ x y, t = s.setFl (compareFlags x y) := by
  cases i with
  | cmp a b =>
    rcases withRegs_cases h with ⟨ra, rb, -, -, rfl⟩ | ⟨bad, -⟩
    · exact ⟨_, _, rfl⟩
    · exact absurd ((regByteOk_and_eq_false bad).symm.trans ok) Bool.false_ne_true
  | cmpi r imm =>
    rcases withReg_cases h with ⟨rr, -, rfl⟩ | ⟨bad, -⟩
    · exact ⟨_, _, rfl⟩
    · exact absurd (((regByteOk_eq_false_iff r).mpr bad).symm.trans ok) Bool.false_ne_true
  | _ => simp [Instr.op] at hi

/-- Settles O24: a comparison writes one of three values to FL, and each of them has one flag bit. -/
theorem comparisonSetsExactlyOneFlag : Obligations.ComparisonSetsExactlyOneFlag := by
  unfold Obligations.ComparisonSetsExactlyOneFlag
  intro i s t hi ok h
  obtain ⟨x, y, rfl⟩ := exec_compare hi ok h
  exact (show ∀ fl ∈ [(1 : Byte), 2, 4], fl.extractLsb' 3 5 = 0 ∧
    [fl.getLsbD 0, fl.getLsbD 1, fl.getLsbD 2].count true = 1 by decide) _ (compareFlags_mem x y)

/-! ### Conditional jumps -/

/-- A conditional jump reads no bit of FL beyond its condition and leaves FL as it was. -/
theorem jumpIf_setFl {taken taken' : Bool} {r : Byte} {s t : State} (fl : Byte) (hcond : taken' = taken)
    (h : jumpIf taken r s = .next t) : t.fl = s.fl ∧ jumpIf taken' r (s.setFl fl) = .next (t.setFl fl) := by
  subst hcond
  rcases withReg_cases h with ⟨rr, rfl, rfl⟩ | ⟨bad, rfl⟩
  · rw [jumpIf, withReg_byte]
    cases taken' <;> exact ⟨rfl, rfl⟩
  · exact ⟨rfl, withReg_bad bad _ _⟩

/-- Settles O27: each conditional jump's condition is one bit of FL or its negation. -/
theorem conditionalJumpsReadOneFlag : Obligations.ConditionalJumpsReadOneFlag := by
  unfold Obligations.ConditionalJumpsReadOneFlag
  intro i k hik s t fl hfl h
  cases i with
  | jeq r | jgt r | jlt r =>
    obtain rfl : k = _ := by simpa [Instr.op] using hik
    exact jumpIf_setFl fl hfl h
  | jne r =>
    obtain rfl : k = 0 := by simpa [Instr.op] using hik
    exact jumpIf_setFl fl (congrArg Bool.not hfl) h
  | _ => simp [Instr.op] at hik

/-! ### Push and pop, call and return -/

/-- Settles O32: the pop reads the byte just pushed and raises SP by the one that the push took. -/
theorem popUndoesPush : Obligations.PopUndoesPush := by
  unfold Obligations.PopUndoesPush
  intro s v hwf
  refine ⟨?_, regs_ext fun r => ?_, fun x hx => memRead_push_other v s hx⟩
  · rw [pop_value, sp_push, memRead_push _ v hwf, if_pos rfl]
  · rw [popState_regs, push_regs, regsRead_regsWrite, regsRead_regsWrite]
    split
    next hr =>
      rw [hr, sp_push, BitVec.sub_add_cancel]
      rfl
    · rfl

theorem exec_call_eq {i : Instr} {s t : State} (hi : i.op = .call ∨ i.op = .calli) (ok : i.wellFormed = true)
    (h : exec i s = .next t) : ∃ target, t = s.call target := by
  cases i with
  | call r =>
    rcases withReg_cases h with ⟨rr, -, rfl⟩ | ⟨bad, -⟩
    · exact ⟨_, rfl⟩
    · exact absurd (((regByteOk_eq_false_iff r).mpr bad).symm.trans ok) Bool.false_ne_true
  | calli imm => exact ⟨imm, (Host.Outcome.next.inj h).symm⟩
  | _ => simp [Instr.op] at hi

/-- Settles O30: the byte at SP after the call is the return address, and RET raises SP by the one that the call took. -/
theorem returnUndoesCall : Obligations.ReturnUndoesCall := by
  unfold Obligations.ReturnUndoesCall
  intro i s t u hi ok hwf h hsp hbyte
  obtain ⟨target, rfl⟩ := exec_call_eq hi ok h
  refine ⟨_, exec_ret u, ?_, ?_⟩
  · calc (u.pop.2.transfer u.pop.1).pc = (s.push s.returnAddress).memRead (s.sp - 1) := hbyte
      _ = s.pc + 2 := by rw [memRead_push _ _ hwf, if_pos rfl, State.returnAddress]
  · calc (u.pop.2.transfer u.pop.1).sp = s.sp - 1 + 1 := congrArg (· + 1) hsp
      _ = s.sp := BitVec.sub_add_cancel _ _

end Sys2Proof.Machine

namespace Sys2Proof.Machine
/-! Interrupts over several moves (60_exceptions.md R243-R255, 70_reset_and_hazards.md R293): raises and key presses, a
raised line served, the round trip of entry and IRET, and that only IRET ends a handler. -/

/-! ### IM and IS are registers (10_state.md R22) -/

/-- Settles O46: LDI writes the register that the index names. -/
theorem maskAndStatusAreRegisters : Obligations.MaskAndStatusAreRegisters := by
  unfold Obligations.MaskAndStatusAreRegisters
  intro s v
  have hldi (q : Reg) :
      ∃ t, exec (.ldi q.byte v) s = .next t ∧ t.cfg = s.cfg ∧ t.reg q = v ∧ ∀ r, r ≠ q → t.reg r = s.reg r :=
    ⟨s.setReg q v, exec_ldi q v s, rfl, reg_setReg_same q v s, fun r hr => reg_setReg_other v s hr⟩
  constructor
  · obtain ⟨t, ht, hcfg, hreg, hframe⟩ := hldi s.cfg.imIdx
    exact ⟨t, ht, by rw [State.im, hcfg, hreg], hframe⟩
  · obtain ⟨t, ht, hcfg, hreg, hframe⟩ := hldi s.cfg.isIdx
    exact ⟨t, ht, by rw [State.is, hcfg, hreg], hframe⟩

/-! ### Raises and key presses (60_exceptions.md R250, R251) -/

/-- Settles O44: on a running core a raise is one write of IS, and a key press a store and the raise of line 1. -/
theorem raiseAndKeyPress : Obligations.RaiseAndKeyPress := by
  unfold Obligations.RaiseAndKeyPress
  refine ⟨fun s i hrun => ?_, fun s k hrun => ?_,
    fun s i k hhalted => ⟨move_of_halted hhalted _, move_of_halted hhalted _⟩⟩
  · rw [move, raiseLine_of_running hrun, lineBit_eq_shiftLeft]
  · rw [move, keyPress_of_running hrun, raiseLine_of_running (s := s.memWrite s.cfg.keyAddr k) hrun, is_memWrite]
    rfl

/-! ### A raised line is served in the next tick (70_reset_and_hazards.md R293) -/

theorem getLsbD_lineBit (i j : Fin 8) : (lineBit i).getLsbD j.val = decide (j = i) := by
  revert i j
  decide

theorem is_setIs (v : Byte) (s : State) : (s.setIs v).is = v := reg_setReg_same s.cfg.isIdx v s

theorem setIs_ir (v : Byte) (s : State) : (s.setIs v).ir = s.ir := rfl

theorem setIs_out (v : Byte) (s : State) : (s.setIs v).out = s.out := rfl

theorem im_setIs (v : Byte) {s : State} (h : s.cfg.imIdx ≠ s.cfg.isIdx) : (s.setIs v).im = s.im :=
  reg_setReg_other v s h

/-- Line j is pending and enabled after a raise of line i just where it was before, or is line i and enabled. -/
theorem pending_raiseLine {s : State} (hrun : s.halted = false) (hidx : s.cfg.imIdx ≠ s.cfg.isIdx) (i j : Fin 8) :
    ((s.raiseLine i).is &&& (s.raiseLine i).im).getLsbD j.val =
      ((s.is &&& s.im).getLsbD j.val || (decide (j = i) && s.im.getLsbD j.val)) := by
  rw [raiseLine_of_running hrun, is_setIs, im_setIs _ hidx, BitVec.getLsbD_and, BitVec.getLsbD_or, getLsbD_lineBit,
    BitVec.getLsbD_and, Bool.and_or_distrib_right]

/-- Settles O45: after the raise the arbiter has line i among its candidates, so it finds it or a lower one, and the tick
is that line's entry. -/
theorem raisedLineIsServedNextTick : Obligations.RaisedLineIsServedNextTick := by
  unfold Obligations.RaisedLineIsServedNextTick
  intro s i hrun hie him hidx
  have hpending (j : Fin 8) := pending_raiseLine hrun hidx i j
  have hself : ((s.raiseLine i).is &&& (s.raiseLine i).im).getLsbD i.val = true := by
    simp only [hpending, him, decide_true, Bool.and_self, Bool.or_true]
  have hraised := raiseLine_of_running hrun i
  have hrun' : (s.raiseLine i).halted = false := hraised ▸ hrun
  have hie' : (s.raiseLine i).ie = true := hraised ▸ hie
  cases hl : (s.raiseLine i).lineToTake? with
  | none =>
    rcases (lineToTake?_none_iff _).mp hl with h | h
    · exact absurd (hie'.symm.trans h) (by decide)
    · simp [h] at hself
  | some j =>
    obtain ⟨hj, hlow⟩ := lineToTake?_spec hl
    refine ⟨j, _, ?_, ?_, ?_, rfl, rfl, ?_, ?_⟩
    · exact Fin.not_lt.mp fun hlt => absurd (hself.symm.trans (hlow i hlt)) (by decide)
    · rw [runMoves_cons rfl, runMoves_cons (m := .tick) (step_entry hrun' hl), runMoves]
    · rw [hpending, Bool.or_eq_true, Bool.and_eq_true, decide_eq_true_eq] at hj
      exact hj.symm.imp_left And.left
    · rw [interruptEntry_ir, setPcset_ir, hraised, setIs_ir]
    · rw [interruptEntry_out, setPcset_out, hraised, setIs_out]

/-! ### Entry and return (60_exceptions.md R248) -/

/-- After an entry SP + k addresses the (9 - k)-th byte pushed. -/
theorem memRead_interruptEntry_sp (i : Fin 8) {s : State} (hwf : Memory.wf s.mem = true) (h : s.cfg.isIdx ≠ .r7)
    (k : Fin 9) :
    (s.interruptEntry i).memRead ((s.interruptEntry i).sp + BitVec.ofNat 8 k.val) =
      stackedBytes (entryCleared i s) k.rev := by
  have haddr : s.sp - 9 + BitVec.ofNat 8 k.val = s.sp - BitVec.ofNat 8 (k.rev.val + 1) := by
    have := k.isLt
    rw [Fin.val_rev]
    bv_omega
  rw [sp_interruptEntry i h, haddr, memRead_interruptEntry_stacked i hwf h]

/-- An IRET that finds the nine bytes of an entry on the stack loads the saved context. -/
theorem interruptReturn_of_stackedBytes {u c : State}
    (h : ∀ k : Fin 9, u.memRead (u.sp + BitVec.ofNat 8 k.val) = stackedBytes c k.rev) :
    u.interruptReturn.pc = c.pc ∧ u.interruptReturn.fl = c.fl ∧ ∀ r, r ≠ .r7 → u.interruptReturn.reg r = c.reg r := by
  refine ⟨?_, ?_, fun r hr => ?_⟩
  · exact (interruptReturn_pc u).trans (h 8)
  · exact (interruptReturn_fl u).trans (h 7)
  · rw [interruptReturn_eq]
    cases r with
    | r0 => exact h 6
    | r1 => exact h 5
    | r2 => exact h 4
    | r3 => exact h 3
    | r4 => exact h 2
    | r5 => exact h 1
    | r6 => exact (congrArg u.memRead (BitVec.add_zero u.sp)).symm.trans (h 0)
    | r7 => exact absurd rfl hr

/-- Settles O41: the nine bytes that IRET pops are those that the entry pushed, in the state with IE and the line's IS bit
cleared. -/
theorem interruptRoundTrip : Obligations.InterruptRoundTrip := by
  unfold Obligations.InterruptRoundTrip
  intro s t u i hrun hie hi hlow hwf hidx h hsp hbytes
  obtain rfl := Host.Outcome.next.inj ((step_entry hrun (lineToTake?_eq hie hi hlow)).symm.trans h)
  have hstacked (k : Fin 9) : u.memRead (u.sp + BitVec.ofNat 8 k.val) =
      stackedBytes (entryCleared i (s.setPcset false)) k.rev := by
    rw [hsp, hbytes k, memRead_interruptEntry_sp (s := s.setPcset false) i hwf hidx]
  obtain ⟨hpc, hfl, hreg⟩ := interruptReturn_of_stackedBytes hstacked
  have hspBack : u.interruptReturn.sp = s.sp := by
    rw [interruptReturn_sp, hsp, sp_interruptEntry (s := s.setPcset false) i hidx]
    exact BitVec.sub_add_cancel _ _
  refine ⟨_, exec_iret u, hpc, hfl, interruptReturn_ie u, hspBack, fun r hr => ?_, ?_, fun x => ?_⟩
  · by_cases hr7 : r = .r7
    · exact hr7 ▸ hspBack
    · rw [hreg r hr7, reg_entryCleared]
      exact if_neg hr
  · rw [hreg _ hidx, reg_entryCleared, ← lineBit_eq_shiftLeft]
    exact if_pos rfl
  · rw [State.memRead, interruptReturn_mem, State.memRead]

/-! ### Only IRET ends a handler (60_exceptions.md R255) -/

@[simp] theorem advance_ie (s : State) : s.advance.ie = s.ie := by
  rcases advance_cases s with ⟨h, -⟩ | ⟨h, -⟩ <;> rw [h]
  rfl

theorem opOf?_of_dispatch {m : OpcodeMap} {ir opa opb : Byte} {i : Instr} (h : dispatch m ir opa opb = some i) :
    m.opOf? ir = some i.op := by
  rw [← dispatch_map_op m ir opa opb, h, Option.map_some]

/-- A tick that takes IE from 0 to 1 is of a running core and fetches IRET. -/
theorem step_sets_ie {s t : State} (h : step s = .next t) (hs : s.ie = false) (ht : t.ie = true) :
    s.halted = false ∧ s.cfg.opc.opOf? (s.memRead s.pc) = some .iret := by
  have hne : t.ie ≠ s.ie := by simp [hs, ht]
  cases hrun : s.halted with
  | true => exact absurd (Host.Outcome.next.inj ((step_halted hrun).symm.trans h) ▸ rfl) hne
  | false =>
    refine ⟨rfl, ?_⟩
    obtain ⟨u, hu, hstep⟩ := step_of_ie_false hrun hs
    obtain rfl := Host.Outcome.next.inj (hstep.symm.trans h)
    rw [advance_ie] at hne
    rcases execute_cases hu with ⟨-, rfl⟩ | ⟨i, hi, he⟩
    · exact absurd rfl hne
    · obtain rfl : i = .iret := by_contra fun hiret => hne (exec_ie (s := s.fetched) hiret he)
      exact opOf?_of_dispatch hi

@[simp] theorem raiseLine_ie (i : Fin 8) (s : State) : (s.raiseLine i).ie = s.ie := by
  rw [State.raiseLine]
  split <;> rfl

@[simp] theorem keyPress_ie (k : Byte) (s : State) : (s.keyPress k).ie = s.ie := by
  rw [State.keyPress]
  split
  · rfl
  · rw [raiseLine_ie, memWrite_ie]

/-- A move that takes IE from 0 to 1 is a tick that fetches IRET. -/
theorem move_sets_ie {m : Move} {s t : State} (h : move m s = .next t) (hs : s.ie = false) (ht : t.ie = true) :
    m = .tick ∧ s.halted = false ∧ s.cfg.opc.opOf? (s.memRead s.pc) = some .iret := by
  cases m with
  | tick => exact ⟨rfl, step_sets_ie h hs ht⟩
  | raise i =>
    obtain rfl := Host.Outcome.next.inj h
    exact absurd ((raiseLine_ie i s).symm.trans ht) (by simp [hs])
  | key k =>
    obtain rfl := Host.Outcome.next.inj h
    exact absurd ((keyPress_ie k s).symm.trans ht) (by simp [hs])

/-- Settles O43: the first move after which IE is 1 is a tick that fetched IRET. -/
theorem onlyIretEndsAHandler : Obligations.OnlyIretEndsAHandler := by
  unfold Obligations.OnlyIretEndsAHandler
  intro ms
  induction ms with
  | nil =>
    intro s t hs h ht
    obtain rfl := Host.Outcome.next.inj h
    exact absurd (hs.symm.trans ht) (by decide)
  | cons m ms ih =>
    intro s t hs h ht
    obtain ⟨u, hu, hrest⟩ := runMoves_cons_cases h
    cases hie : u.ie with
    | true =>
      obtain ⟨rfl, hrun, hiret⟩ := move_sets_ie hu hs hie
      exact ⟨[], ms, s, rfl, rfl, hrun, hs, hiret⟩
    | false =>
      obtain ⟨before, after, w, rfl, hw, hfound⟩ := ih u t hie hrest ht
      exact ⟨m :: before, after, w, rfl, (runMoves_cons hu before).trans hw, hfound⟩

/-! ### OUT only grows (10_state.md R35) -/

/-- From `s` to `t` OUT has grown by at most `n` events at its end, and the parameters are the same. -/
def GrowsOut (n : Nat) (s t : State) : Prop :=
  (∃ sent, t.out = s.out ++ sent ∧ sent.length ≤ n) ∧ t.cfg = s.cfg

theorem growsOut_of_eq {s t : State} (hout : t.out = s.out) (hcfg : t.cfg = s.cfg) (n : Nat) : GrowsOut n s t :=
  ⟨⟨[], by rw [hout, List.append_nil], Nat.zero_le n⟩, hcfg⟩

theorem GrowsOut.trans {n k : Nat} {s t u : State} (hst : GrowsOut n s t) (htu : GrowsOut k t u) :
    GrowsOut (n + k) s u := by
  obtain ⟨⟨sent, hsent, hn⟩, hcfg⟩ := hst
  obtain ⟨⟨sent', hsent', hk⟩, hcfg'⟩ := htu
  refine ⟨⟨sent ++ sent', by rw [hsent', hsent, List.append_assoc], ?_⟩, hcfg'.trans hcfg⟩
  rw [List.length_append]
  omega

theorem exec_growsOut {i : Instr} {s t : State} (h : exec i s = .next t) : GrowsOut 1 s t := by
  obtain ⟨-, -, -, hcfg⟩ := exec_latches h
  cases effect_of_exec h with
  | send e => exact ⟨⟨[e], rfl, Nat.le_refl 1⟩, hcfg⟩
  | interruptReturn => exact growsOut_of_eq (interruptReturn_out s) hcfg 1
  | _ => exact growsOut_of_eq rfl hcfg 1

theorem growsOut_advance (s : State) : GrowsOut 0 s s.advance := by
  rcases advance_cases s with ⟨h, -⟩ | ⟨h, -⟩ <;> rw [h] <;> exact growsOut_of_eq rfl rfl 0

theorem step_growsOut {s t : State} (h : step s = .next t) : GrowsOut 1 s t := by
  cases hrun : s.halted with
  | true =>
    obtain rfl := Host.Outcome.next.inj ((step_halted hrun).symm.trans h)
    exact growsOut_of_eq rfl rfl 1
  | false =>
    rcases step_cases hrun h with ⟨i, -, rfl⟩ | ⟨-, u, hu, rfl⟩
    · exact growsOut_of_eq rfl rfl 1
    · have hfetched : GrowsOut 0 s s.fetched := growsOut_of_eq rfl rfl 0
      rcases execute_cases hu with ⟨-, rfl⟩ | ⟨i, -, he⟩
      · exact (growsOut_of_eq rfl rfl 1).trans (growsOut_advance s.fetched)
      · exact (hfetched.trans (exec_growsOut he)).trans (growsOut_advance u)

theorem growsOut_raiseLine (i : Fin 8) (s : State) (n : Nat) : GrowsOut n s (s.raiseLine i) := by
  rw [State.raiseLine]
  split <;> exact growsOut_of_eq rfl rfl n

theorem move_growsOut {m : Move} {s t : State} (h : move m s = .next t) : GrowsOut 1 s t := by
  cases m with
  | tick => exact step_growsOut h
  | raise i => exact Host.Outcome.next.inj h ▸ growsOut_raiseLine i s 1
  | key k =>
    obtain rfl := Host.Outcome.next.inj h
    rw [State.keyPress]
    split
    · exact growsOut_of_eq rfl rfl 1
    · exact growsOut_raiseLine 1 (s.memWrite s.cfg.keyAddr k) 1

/-- Settles O52: a move sends at most one event, so a list of moves sends at most as many as it is long. -/
theorem outputOnlyGrows : Obligations.OutputOnlyGrows := by
  unfold Obligations.OutputOnlyGrows
  show ∀ ms s t, runMoves ms s = .next t → GrowsOut ms.length s t
  intro ms
  induction ms with
  | nil =>
    intro s t h
    obtain rfl := Host.Outcome.next.inj h
    exact growsOut_of_eq rfl rfl 0
  | cons m ms ih =>
    intro s t h
    obtain ⟨u, hu, hrest⟩ := runMoves_cons_cases h
    rw [List.length_cons, Nat.add_comm]
    exact (move_growsOut hu).trans (ih u t hrest)

end Sys2Proof.Machine

namespace Sys2Proof.Machine
/-! The load file (70_reset_and_hazards.md R285): comments, white space, binary digits, and the lines of a file in order. -/

/-! ### Comments -/

theorem stripComment_of_notMem {line : List Char} (h : '#' ∉ line) : stripComment line = line := by
  refine List.takeWhile_eq_self_iff.mpr fun c hc => ?_
  simpa using fun e : c = '#' => h (e ▸ hc)

theorem stripComment_append (line comment : List Char) (h : '#' ∉ line) : stripComment (line ++ '#' :: comment) = line := by
  have hline : ∀ c ∈ line, (c != '#') = true := fun c hc => by simpa using fun e : c = '#' => h (e ▸ hc)
  rw [stripComment, List.takeWhile_append_of_pos hline, List.takeWhile_cons_of_neg (by decide), List.append_nil]

/-- Settles O55: both lines are the same once the comment is taken off. -/
theorem commentChangesNothing : Obligations.CommentChangesNothing := by
  unfold Obligations.CommentChangesNothing
  intro line comment h
  rw [parseLine, stripComment_append line comment h, parseLine, stripComment_of_notMem h]

/-! ### Binary digits -/

/-- The digits of the low `k` bits of a number, the highest first. -/
def bitChars (n k : Nat) : List Char := ((List.range k).map fun j => if n.testBit j then '1' else '0').reverse

theorem bitChars_succ (n k : Nat) : bitChars n (k + 1) = (if n.testBit k then '1' else '0') :: bitChars n k := by
  rw [bitChars, List.range_succ, List.map_append, List.reverse_append]
  rfl

theorem bitOf?_ite (b : Bool) : bitOf? (if b then '1' else '0') = some b.toNat := by cases b <;> rfl

/-- Read on top of a number's high bits, the digits of its low bits give the number. -/
theorem binaryFrom_bitChars (n k : Nat) : binaryFrom (n / 2 ^ k) (bitChars n k) = some n := by
  induction k with
  | zero => simp [bitChars, binaryFrom]
  | succ k ih =>
    have hshift : 2 * (n / 2 ^ (k + 1)) + (n.testBit k).toNat = n / 2 ^ k := by
      rw [Nat.toNat_testBit, Nat.pow_succ, ← Nat.div_div_eq_div_mul]
      omega
    simp only [bitChars_succ, binaryFrom, bitOf?_ite, hshift, ih]

theorem length_bitChars (n k : Nat) : (bitChars n k).length = k := by
  rw [bitChars, List.length_reverse, List.length_map, List.length_range]

theorem eq_zero_or_one_of_mem_bitChars {n k : Nat} {c : Char} (h : c ∈ bitChars n k) : c = '0' ∨ c = '1' := by
  obtain ⟨j, -, rfl⟩ := List.mem_map.mp (List.mem_reverse.mp h)
  split
  · exact .inr rfl
  · exact .inl rfl

/-! ### White space -/

theorem dropWhile_of_nonblank {word : List Char} (hne : word ≠ []) (hword : ∀ c ∈ word, isBlankChar c = false)
    (rest : List Char) : (word ++ rest).dropWhile isBlankChar = word ++ rest := by
  cases word with
  | nil => exact absurd rfl hne
  | cons c word => exact List.dropWhile_cons_of_neg (by simp [hword c])

/-- White space around a word is taken off (R285). -/
theorem trimBlanks_append {before word after : List Char} (hb : before.all isBlankChar = true)
    (ha : after.all isBlankChar = true) (hne : word ≠ []) (hword : ∀ c ∈ word, isBlankChar c = false) :
    trimBlanks (before ++ word ++ after) = word := by
  have ha' : ∀ c ∈ after.reverse, isBlankChar c = true := fun c hc => List.all_eq_true.mp ha c (List.mem_reverse.mp hc)
  have hback : word.reverse.dropWhile isBlankChar = word.reverse := by
    simpa using dropWhile_of_nonblank (List.reverse_ne_nil_iff.mpr hne) (fun c hc => hword c (List.mem_reverse.mp hc)) []
  rw [trimBlanks, List.append_assoc, List.dropWhile_append_of_pos (List.all_eq_true.mp hb), dropWhile_of_nonblank hne hword,
    List.reverse_append, List.dropWhile_append_of_pos ha', hback, List.reverse_reverse]

theorem parseLine_of_digits {line digits : List Char} {n : Nat} (hword : trimBlanks (stripComment line) = digits)
    (hlen : digits.length = 8) (hn : binaryFrom 0 digits = some n) : parseLine line = .byte (BitVec.ofNat 8 n) := by
  rw [parseLine, hword]
  split
  next => cases hlen
  next => simp [hlen, hn]

/-- Settles O56: white space and the digits hold no `#`, the trim leaves the digits, and they are those of the byte's
bits. -/
theorem binaryDigitsLoadTheByte : Obligations.BinaryDigitsLoadTheByte := by
  unfold Obligations.BinaryDigitsLoadTheByte
  intro v before after hb ha
  show parseLine (before ++ bitChars v.toNat 8 ++ after) = .byte v
  have hcomment : '#' ∉ before ++ bitChars v.toNat 8 ++ after := by
    intro h
    rcases List.mem_append.mp h with h | h
    · rcases List.mem_append.mp h with h | h
      · exact absurd (List.all_eq_true.mp hb _ h) (by decide)
      · exact absurd (eq_zero_or_one_of_mem_bitChars h) (by decide)
    · exact absurd (List.all_eq_true.mp ha _ h) (by decide)
  have hdigits : ∀ c ∈ bitChars v.toNat 8, isBlankChar c = false := fun c hc => by
    rcases eq_zero_or_one_of_mem_bitChars hc with rfl | rfl <;> rfl
  have hword : trimBlanks (stripComment (before ++ bitChars v.toNat 8 ++ after)) = bitChars v.toNat 8 := by
    rw [stripComment_of_notMem hcomment, trimBlanks_append hb ha ?_ hdigits]
    exact List.ne_nil_of_length_eq_add_one (length_bitChars v.toNat 8)
  have hvalue := binaryFrom_bitChars v.toNat 8
  rw [Nat.div_eq_of_lt v.isLt] at hvalue
  rw [parseLine_of_digits hword (length_bitChars _ _) hvalue, BitVec.ofNat_toNat, BitVec.setWidth_eq]

/-! ### The lines of a file -/

/-- The bytes of the kept lines in file order, or nothing where a line is malformed (R285, D27). -/
theorem parseLines_eq (lines : List (List Char)) :
    parseLines lines =
      if .malformed ∈ lines.map parseLine then none else some (lines.filterMap fun line => (parseLine line).byte?) := by
  induction lines with
  | nil => rfl
  | cons line lines ih =>
    rw [parseLines, ih, List.map_cons, List.filterMap_cons]
    cases parseLine line with
    | malformed => simp
    | blank => simp [LoadLine.byte?]
    | byte v => by_cases hm : .malformed ∈ lines.map parseLine <;> simp [hm, LoadLine.byte?]

/-- Settles O57: the loader refuses where a line is malformed, or where the bytes of the kept lines are more than 256. -/
theorem loaderKeepsFileOrderOrRefuses : Obligations.LoaderKeepsFileOrderOrRefuses := by
  unfold Obligations.LoaderKeepsFileOrderOrRefuses
  intro text
  rw [loadText, parseLines_eq]
  by_cases hm : .malformed ∈ (splitLines text).map parseLine
  · simp [hm]
  · simp only [hm, if_false, false_or, ← Nat.not_lt, ite_not]

end Sys2Proof.Machine

namespace Sys2Proof.Machine
/-! Assembly text (30_encoding.md R87): the tokens of a line, numbers and registers as they are written, and that the line
written for an instruction reads as that instruction. -/

/-! ### Tokens -/

/-- A token: a text that is not empty and holds no separator. -/
def IsToken (word : List Char) : Prop := word ≠ [] ∧ ∀ c ∈ word, (c == ' ' || c == ',') = false

theorem tokensFrom_cons {c : Char} (hc : (c == ' ' || c == ',') = false) (current rest : List Char) :
    tokensFrom current (c :: rest) = tokensFrom (c :: current) rest := by
  cases current <;> simp [tokensFrom, hc]

/-- A separator ends the token begun before it. -/
theorem tokensFrom_separator {c : Char} (hc : (c == ' ' || c == ',') = true) {current : List Char} (hne : current ≠ [])
    (rest : List Char) : tokensFrom current (c :: rest) = current.reverse :: tokensFrom [] rest := by
  cases current with
  | nil => exact absurd rfl hne
  | cons => simp only [tokensFrom, if_pos hc]

theorem tokensFrom_nil_separator {c : Char} (hc : (c == ' ' || c == ',') = true) (rest : List Char) :
    tokensFrom [] (c :: rest) = tokensFrom [] rest := by
  simp only [tokensFrom, if_pos hc]

theorem tokensFrom_append {word : List Char} (hword : ∀ c ∈ word, (c == ' ' || c == ',') = false)
    (current rest : List Char) : tokensFrom current (word ++ rest) = tokensFrom (word.reverse ++ current) rest := by
  induction word generalizing current with
  | nil => rfl
  | cons c word ih =>
    obtain ⟨hc, hrest⟩ := List.forall_mem_cons.mp hword
    rw [List.cons_append, tokensFrom_cons hc, ih hrest, List.reverse_cons, List.append_assoc]
    rfl

theorem tokensFrom_token {word : List Char} (h : IsToken word) : tokensFrom [] word = [word] := by
  obtain ⟨hne, hword⟩ := h
  have hread := tokensFrom_append hword [] []
  rw [List.append_nil, List.append_nil] at hread
  rw [hread, tokensFrom, List.reverse_reverse]
  exact fun h => hne (List.reverse_eq_nil_iff.mp h)

theorem tokensFrom_token_separator {word : List Char} (h : IsToken word) {c : Char} (hc : (c == ' ' || c == ',') = true)
    (rest : List Char) : tokensFrom [] (word ++ c :: rest) = word :: tokensFrom [] rest := by
  obtain ⟨hne, hword⟩ := h
  rw [tokensFrom_append hword, List.append_nil, tokensFrom_separator hc (List.reverse_ne_nil_iff.mpr hne),
    List.reverse_reverse]

/-- The tokens of words with a comma and a space between them are the words. -/
theorem tokensFrom_commaSeparated {first : List Char} {words : List (List Char)} (hfirst : IsToken first)
    (hwords : ∀ w ∈ words, IsToken w) :
    tokensFrom [] (first ++ words.flatMap fun w => ',' :: ' ' :: w) = first :: words := by
  induction words generalizing first with
  | nil => rw [List.flatMap_nil, List.append_nil, tokensFrom_token hfirst]
  | cons w words ih =>
    obtain ⟨hw, hrest⟩ := List.forall_mem_cons.mp hwords
    rw [List.flatMap_cons, List.cons_append, List.cons_append, tokensFrom_token_separator hfirst rfl,
      tokensFrom_nil_separator rfl, ih hw hrest]

/-! ### Numbers -/

theorem digitOf?_of_isDigit {c : Char} (h : c.isDigit = true) : digitOf? 10 c = some (c.toNat - '0'.toNat) := by
  obtain ⟨hlow, hhigh⟩ := Char.isDigit_iff_toNat.mp h
  have hlow' : 48 ≤ c.toNat := hlow
  have hhigh' : c.toNat ≤ 57 := hhigh
  simp only [digitOf?, hlow', hhigh', and_self, if_true]
  exact if_pos (by omega)

theorem digitsFrom_of_isDigit {digits : List Char} (h : ∀ c ∈ digits, c.isDigit = true) (acc : Nat) :
    digitsFrom 10 acc digits = some (Nat.ofDigitChars 10 digits acc) := by
  induction digits generalizing acc with
  | nil => rfl
  | cons c digits ih =>
    obtain ⟨hc, hrest⟩ := List.forall_mem_cons.mp h
    simp only [digitsFrom, digitOf?_of_isDigit hc, ih hrest, Nat.ofDigitChars_cons]

/-- Decimal digits are read as decimal: no digit is the `x` of a hexadecimal number. -/
theorem numberOf?_of_isDigit {digits : List Char} (hne : digits ≠ []) (h : ∀ c ∈ digits, c.isDigit = true)
    (hlt : Nat.ofDigitChars 10 digits 0 < 256) :
    numberOf? digits = some (BitVec.ofNat 8 (Nat.ofDigitChars 10 digits 0)) := by
  have hx : 'x' ∉ digits := fun hmem => absurd (h 'x' hmem) (by decide)
  have hvalue := digitsFrom_of_isDigit h 0
  unfold numberOf?
  split
  · exact absurd rfl hne
  · simp at hx
  · simp at hx
  · simp only [hvalue, hlt, if_true]

theorem isDigit_of_mem_toDigits {n : Nat} {c : Char} (h : c ∈ Nat.toDigits 10 n) : c.isDigit = true :=
  Nat.isDigit_of_mem_toDigits (by decide) (by decide) h

theorem numberOf?_toDigits (v : Byte) : numberOf? (Nat.toDigits 10 v.toNat) = some v := by
  have h := numberOf?_of_isDigit Nat.toDigits_ne_nil (fun _ => isDigit_of_mem_toDigits)
    (Nat.ofDigitChars_ten_toDigits.trans_lt v.isLt)
  rwa [Nat.ofDigitChars_ten_toDigits, BitVec.ofNat_toNat, BitVec.setWidth_eq] at h

theorem isToken_toDigits (n : Nat) : IsToken (Nat.toDigits 10 n) := by
  refine ⟨Nat.toDigits_ne_nil, fun c hc => ?_⟩
  have hdigit := isDigit_of_mem_toDigits hc
  have hspace : c ≠ ' ' := fun e => absurd (e ▸ hdigit) (by decide)
  have hcomma : c ≠ ',' := fun e => absurd (e ▸ hdigit) (by decide)
  simp [hspace, hcomma]

/-! ### Registers and mnemonics -/

theorem registerOf?_registerChars {k : Byte} (h : regByteOk k = true) : registerOf? (registerChars k) = some k := by
  obtain ⟨r, hr⟩ := (regByteOk_iff k).mp h
  rw [byte_of_regOf? hr]
  cases r <;> rfl

theorem isToken_registerChars (k : Byte) : IsToken (registerChars k) := by
  refine ⟨List.cons_ne_nil _ _, List.forall_mem_cons.mpr ⟨rfl, ?_⟩⟩
  obtain ⟨-, h⟩ := isToken_toDigits k.toNat
  exact h

theorem isToken_mnemonicChars (o : Op) : IsToken (mnemonicChars o) := by
  have hletters : ((mnemonicChars o).all fun c => !(c == ' ' || c == ',')) = true := by cases o <;> rfl
  refine ⟨by cases o <;> exact List.cons_ne_nil _ _, fun c hc => ?_⟩
  simpa using List.all_eq_true.mp hletters c hc

theorem find?_mnemonicChars (o : Op) : (Op.all.find? fun p => mnemonicChars p == mnemonicChars o) = some o := by
  cases o <;> rfl

theorem isToken_of_mem_operandChars {f : Format} {opa opb : Byte} {w : List Char} (h : w ∈ operandChars f opa opb) :
    IsToken w := by
  have hr := isToken_registerChars
  have hd := isToken_toDigits
  cases f <;> simp only [operandChars, List.mem_cons, List.not_mem_nil, or_false] at h
  case f1r => exact h ▸ hr opa
  case f1i => exact h ▸ hd opa.toNat
  case f2rr =>
    rcases h with rfl | rfl
    · exact hr opa
    · exact hr opb
  case f2ri =>
    rcases h with rfl | rfl
    · exact hr opa
    · exact hd opb.toNat

/-! ### The line of an instruction -/

/-- The operands of an instruction as its line writes them. -/
def writtenOperands (i : Instr) : List (List Char) :=
  operandChars i.op.format (i.operands.getD 0 0) (i.operands.getD 1 0)

theorem tokensFrom_assemblyLine (i : Instr) :
    tokensFrom [] (assemblyLine i) = mnemonicChars i.op :: writtenOperands i := by
  have hmnemonic := isToken_mnemonicChars i.op
  have hoperands : ∀ w ∈ writtenOperands i, IsToken w := fun w => isToken_of_mem_operandChars
  unfold assemblyLine
  rw [← writtenOperands]
  cases h : writtenOperands i with
  | nil => exact tokensFrom_token hmnemonic
  | cons first rest =>
    rw [h] at hoperands
    obtain ⟨hfirst, hrest⟩ := List.forall_mem_cons.mp hoperands
    simp only [List.append_assoc, List.cons_append]
    rw [tokensFrom_token_separator hmnemonic rfl, tokensFrom_commaSeparated hfirst hrest]

/-- The written operands are read by the format as the operand bytes. -/
theorem assembleOp_writtenOperands {i : Instr} (ok : i.wellFormed = true) :
    assembleOp i.op (writtenOperands i) = some i := by
  cases i with
  | hlt | ret | iret => rfl
  | pra | prn | call | pop | push | jmp | jeq | jne | jlt | jgt | not | inc | dec =>
    exact congrArg (Option.map _) (registerOf?_registerChars ok)
  | calli imm | jmpi imm => exact congrArg (Option.map _) (numberOf?_toDigits imm)
  | cmpi r imm | addi r imm | subi r imm | muli r imm | divi r imm | modi r imm | ldi r imm =>
    simp [assembleOp, writtenOperands, operandChars, Instr.op, Op.format, Instr.operands, numberOf?_toDigits,
      registerOf?_registerChars (k := r) ok, Op.instr]
  | drw a b | ld a b | st a b | cmp a b | add a b | sub a b | mul a b | div a b | mod a b | or a b | xor a b | and a b =>
    obtain ⟨ha, hb⟩ := (Bool.and_eq_true _ _).mp ok
    simp [assembleOp, writtenOperands, operandChars, Instr.op, Op.format, Instr.operands, registerOf?_registerChars ha,
      registerOf?_registerChars hb, Op.instr]

/-- Settles O6: the line's tokens are the mnemonic, which selects the operation, and the written operands. -/
theorem assemblyLineWritesTheInstruction : Obligations.AssemblyLineWritesTheInstruction := by
  unfold Obligations.AssemblyLineWritesTheInstruction
  intro i ok
  simp only [assemble, tokensFrom_assemblyLine, find?_mnemonicChars, assembleOp_writtenOperands ok]

end Sys2Proof.Machine
